-- ==== Sys2Proof/Word.lean ====
section
/-! DEFINITION. The words the LW-416 handles: bytes, line addresses, lane sets, line data and the index types of its tables
(spec/00_scope.md, sections 2.3 and 4.0). -/

namespace Sys2Proof

/-- A byte. -/
abbrev Byte := BitVec 8

/-- A line address as the channels carry it: bits 39 to 5 of the 40-bit byte address. R2: "the low five bits are not
carried on the channel and are zero in every accepted request". DEDUCED, safe (log 2). -/
abbrev Line := BitVec 35

/-- A set of byte lanes 0-31; bit n stands for lane n (R177: "bit n set when lane n is valid"). -/
abbrev Lanes := BitVec 32

/-- The 32 bytes of a line, byte n in lane n. -/
abbrev LineData := Vector Byte 32

/-- The eight bytes of a marker word, "in the order of the marker lanes" (R70). -/
abbrev MarkerData := Vector Byte 8

/-- The snapshot of a MERGE read: the byte of each covered lane (R130). -/
abbrev Snapshot := Vector (Option Byte) 32

/-- Window index 0-15. -/
abbrev WIdx := Fin 16

/-- Area index 0-7. -/
abbrev AIdx := Fin 8

/-- Requester identity 0-15. -/
abbrev Source := Fin 16

/-- Requester-chosen tag 0-255. -/
abbrev Tag := BitVec 8

/-- Credit number 0-31, the tag of a downstream request (R4). -/
abbrev CreditNo := Fin 32

/-- Number of a record of the transit table, 0-31. -/
abbrev RecNo := Fin 32

/-- Number of a hold slot, 0-7. -/
abbrev HoldNo := Fin 8

/-- A value of the time count of µs ticks (R182). -/
abbrev Tick := BitVec 32

/-- All 32 lanes at zero. -/
def LineData.zero : LineData := Vector.replicate 32 0#8

end Sys2Proof
end

