-- ==== Sys2Proof/Syntax.lean ====
section
/-! DEFINITION. The commands the block takes: one constructor of `Instr` for each row of spec/opcode_table.json, with the
row's operands. The rows carry no bits; an operand is what the rule of the row says comes with it. The frame of a management
command, byte by byte, is `frameOf` of Machine/Operands.lean. -/

namespace Sys2Proof

/-- Request kind (R2). -/
inductive Kind where
  | read
  | write
  deriving DecidableEq, Repr

/-- Response result (R3). -/
inductive Result where
  | done
  | refused
  | failed
  deriving DecidableEq, Repr

/-- A request on the upstream request channel (R2). `data` counts only in the lanes a WRITE enables. -/
structure UpRequest where
  kind   : Kind
  source : Source
  tag    : Tag
  line   : Line
  lanes  : Lanes
  data   : LineData
  deriving DecidableEq, Repr

/-- The operands of WRITE_WINDOW: bytes 0 to 25 of the window record, each field in its width on the port (R177, R178). -/
structure WindowOperands where
  index         : Byte
  base          : BitVec 40
  size          : BitVec 32
  area          : Byte
  trigger       : Byte
  markerOffset  : BitVec 32
  laneGroup     : Byte
  completion    : Byte
  policy        : Byte
  holdLimit     : BitVec 16
  ageLimit      : BitVec 16
  ageAction     : Byte
  enables       : BitVec 16
  deriving DecidableEq, Repr

/-- What an EPOCH_EVENT brings: the levels of EPOCH_IN that the epoch unit samples one after another, true for high (R88; log 10), and
then the windows at which an epoch event on its way is taken now, in this order (R90; log 9). -/
structure EpochDelivery where
  levels  : List Bool
  windows : List WIdx
  deriving DecidableEq, Repr

/-- A run of the serial line with MSEL_N low: the levels of MDI at successive rising edges of MCLK, and whether MSEL_N rises after
them (R169, R172; log 14). -/
structure SerialRun where
  mdi  : List Bool
  rise : Bool
  deriving DecidableEq, Repr

/-- The commands: one constructor for each row of spec/opcode_table.json. A management command stands for the reception
of its frame, or of what is left of it, up to the edge that is its taking (R171). -/
inductive Instr where
  /-- UPSTREAM_REQUEST (R2): the interconnect presents a request with valid asserted. -/
  | upstreamRequest (r : UpRequest)
  /-- UPSTREAM_RESPONSE (R3): the due response of transit record `t` is sent. -/
  | upstreamResponse (t : RecNo)
  /-- GRANT (R15). -/
  | grant
  /-- DOWNSTREAM_ISSUE (R16): the memory controller asserts ready. -/
  | downstreamIssue
  /-- DOWNSTREAM_RESPONSE (R17): tag, result and read data. -/
  | downstreamResponse (tag : CreditNo) (result : Result) (data : LineData)
  /-- REEVALUATION_PASS (R149). -/
  | reevaluationPass
  /-- EPOCH_EVENT (R88): the epoch unit samples EPOCH_IN at the levels of `d`, one event for each change from low to high (log 10), then
  the delivery at each window `d` names: the oldest epoch event on its way to a window is taken there. R90 lets other takings fall
  between the windows of one event: those not named are reached by a later EPOCH_EVENT, with or without levels, or by a step on an
  empty queue (log 9). -/
  | epochEvent (d : EpochDelivery)
  /-- AGE_EXPIRY (R78): the age timer of window `w`'s open group. -/
  | ageExpiry (w : WIdx)
  /-- HOLD_EXPIRY (R151): the deadline of the write in hold slot `k`. -/
  | holdExpiry (k : HoldNo)
  /-- LINK_RESET (R18): assertion of LINK_RST_N; `order` names the windows whose groups are discarded first (R86 leaves the order
  among windows open; log 8). -/
  | linkReset (order : List WIdx)
  /-- LINK_RESET_RELEASE (R18). -/
  | linkResetRelease
  /-- POWER_ON_RESET (R19): assertion of RESET_N. -/
  | powerOnReset
  /-- POWER_ON_RESET_RELEASE (R19, R88): release of RESET_N with EPOCH_IN at the given level (true: high). -/
  | powerOnResetRelease (epochHigh : Bool)
  /-- TRANSACTION_ENDS_EARLY (R172): MCLK runs, and MSEL_N rises where `r` says so; without the rise it is the part of a transaction
  that comes before another taking (log 14). -/
  | transactionEndsEarly (r : SerialRun)
  /-- BAD_COMMAND (R173): a frame with the unknown command code `code`. -/
  | badCommand (code : Byte)
  /-- IDENTIFY (R182). -/
  | identify
  /-- READ_WINDOWS (R179). -/
  | readWindows (first count : Byte)
  /-- WRITE_WINDOW (R21 to R24). -/
  | writeWindow (op : WindowOperands)
  /-- SET_ONLINE (R28). -/
  | setOnline (w : Byte)
  /-- SET_OFFLINE whose mode byte is meant as FINISH, code 0 (R29, R31); any other byte is an unlisted mode (log 15). -/
  | setOfflineFinish (w mode : Byte)
  /-- SET_OFFLINE whose mode byte is meant as DROP, code 1 (R29, R32); any other byte is an unlisted mode (log 15). -/
  | setOfflineDrop (w mode : Byte)
  /-- SEAL (R77). -/
  | seal (w : Byte)
  /-- RELEASE (R96). -/
  | release (w : Byte)
  /-- DISCARD (R84). -/
  | discard (w : Byte)
  /-- CLEAR_FAULT whose action byte is meant as RETRY, code 0 (R37, R119); any other byte is an unlisted action (log 15). -/
  | clearFaultRetry (w action : Byte)
  /-- CLEAR_FAULT whose action byte is meant as ABANDON, code 1 (R37, R121); any other byte is an unlisted action (log 15). -/
  | clearFaultAbandon (w action : Byte)
  /-- READ_GROUPS (R180). -/
  | readGroups (w : Byte)
  /-- READ_AREAS (R179). -/
  | readAreas (first count : Byte)
  /-- WRITE_AREA (R44, R45). -/
  | writeArea (a : Byte) (first count : BitVec 16)
  /-- READ_SLOTS (R58, R179). -/
  | readSlots (first : BitVec 16) (count : Byte)
  /-- POP_EVENTS (R164). -/
  | popEvents (n : Byte)
  /-- READ_STATS (R39). -/
  | readStats (w zero : Byte)
  /-- SOFT_RESET (R184): the orders among windows of its first step (abandonments) and of its second (quiesces); R184
  leaves both open (log 8). -/
  | softReset (abandonOrder quiesceOrder : List WIdx)
  /-- US_TICK (R182): one µs tick derived from REFCLK. The age timers whose deadline it reaches expire in the same taking (R180;
  log 27). -/
  | usTick
  /-- TRANSACTION_START (R170): MSEL_N falls. -/
  | transactionStart
  deriving DecidableEq, Repr

end Sys2Proof
end

