-- ==== Sys2Proof/Config.lean ====
section
/-! DEFINITION. What the part fixes: its capacities and identity (spec/00_scope.md 2.3, R177). The LW-416 leaves no value
open that an effect computes, so there is no free value here (log 24). -/

namespace Sys2Proof.Config

/-- Transit records (00_scope.md 2.3). -/
def transitRecords : Nat := 32

/-- Group records of one window (00_scope.md 2.3, R61). -/
def groupRecords : Nat := 4

/-- Staging slots (00_scope.md 2.3). -/
def stagingSlots : Nat := 512

/-- Hold slots (00_scope.md 2.3, R145). -/
def holdSlots : Nat := 8

/-- Event records (00_scope.md 2.3, R161). -/
def eventRecords : Nat := 32

/-- Credits the drain engine may hold (00_scope.md 2.3, R107). -/
def drainCredits : Nat := 8

/-- Outstanding drain writes one group may have (00_scope.md 2.3, R107). -/
def groupCredits : Nat := 4

/-- The largest window, in lines (R20, R22). -/
def maxWindowLines : Nat := 33554432

/-- Part code returned by IDENTIFY (R177). -/
def partCode : Nat := 0x4C16

/-- Revision returned by IDENTIFY (R177). -/
def revision : Nat := 0x01

end Sys2Proof.Config
end

