-- ==== Sys2Proof/Machine/State.lean ====
section
/-! DEFINITION. The state of the LW-416: every record, list, counter and mode the spec gives the block, as plain data, and
its value right after reset. INVENTORY.md, '## State', lists each field with its rule. -/

namespace Sys2Proof.Machine

/-! ### The transit table (R5, R7) -/

/-- Path of a request; `noPath` is the manual's NONE (R5). -/
inductive Path where
  | noPath
  | pass
  | group
  | merge
  deriving DecidableEq, Repr

/-- What a transit record waits on (R7). -/
inductive Wait where
  | answer
  | credit
  | downstream
  | hold
  | publication
  deriving DecidableEq, Repr

/-- A transit record (R5). `readData` is the data of a READ answered DONE. -/
structure Transit where
  source   : Source
  tag      : Tag
  kind     : Kind
  line     : Line
  lanes    : Lanes
  data     : LineData
  path     : Path
  window   : Option WIdx
  wait     : Wait
  result   : Option Result
  readData : Option LineData
  snapshot : Option Snapshot
  deriving DecidableEq, Repr

/-- A response on the upstream response channel (R3). -/
structure UpResponse where
  source : Source
  tag    : Tag
  result : Result
  data   : Option LineData
  deriving DecidableEq, Repr

/-! ### The downstream arbiter (R15, R16, R101) -/

/-- A request on the downstream request channel (R4): its tag is its credit number. -/
structure DownRequest where
  kind   : Kind
  source : Source
  tag    : CreditNo
  line   : Line
  lanes  : Lanes
  data   : LineData
  deriving DecidableEq, Repr

/-- What a credit HELD by DRAIN serves (R101, R122). -/
inductive DrainClient where
  | entry (w : WIdx) (group : Byte) (sequence : Nat)
  | marker (w : WIdx) (group : Byte)
  | orphan (w : WIdx)
  deriving DecidableEq, Repr

/-- A credit (R15): FREE, HELD by FORWARDER for a transit record or for no client any more, or HELD by DRAIN. -/
inductive Credit where
  | free
  | forwarder (client : Option RecNo)
  | drain (client : DrainClient)
  deriving DecidableEq, Repr

/-- The two requesters of the arbiter (R15). -/
inductive Requester where
  | forwarder
  | drain
  deriving DecidableEq, Repr

/-! ### The window table (R20) and the group queues (R60) -/

/-- Window state (R20). -/
inductive WState where
  | unused
  | offline
  | online
  | quiescing
  | frozen
  deriving DecidableEq, Repr

/-- Trigger mode (R20). -/
inductive Trigger where
  | marker
  | markerEpoch
  | epoch
  deriving DecidableEq, Repr

/-- Marker completion (R20). -/
inductive Completion where
  | early
  | late
  deriving DecidableEq, Repr

/-- The marker fields of a window record, present together in MARKER and MARKER_EPOCH modes and absent in EPOCH mode
(R20, R22). -/
structure MarkerConfig where
  offset     : BitVec 32
  laneGroup  : Fin 4
  completion : Completion
  deriving DecidableEq, Repr

/-- Conflict policy (R20). -/
inductive Policy where
  | refuse
  | hold
  deriving DecidableEq, Repr

/-- Age action (R20). -/
inductive AgeAction where
  | seal
  | break_
  deriving DecidableEq, Repr

/-- The state a window froze from (R20, R35). -/
inductive FrozenFrom where
  | online
  | quiescing
  deriving DecidableEq, Repr

/-- Quiesce mode (R20). -/
inductive QuiesceMode where
  | finish
  | drop
  deriving DecidableEq, Repr

/-- The four statistics counts of a window (R38). -/
structure Stats where
  published : BitVec 32
  discarded : BitVec 32
  broken    : BitVec 32
  refused   : BitVec 32
  deriving DecidableEq, Repr

/-- Group state (R60, R62). -/
inductive GState where
  | opened
  | broken
  | sealed
  | released
  | draining
  | marking
  | faulted
  deriving DecidableEq, Repr

/-- Seal cause (R60). -/
inductive SealCause where
  | marker
  | manual
  | epoch
  | age
  deriving DecidableEq, Repr

/-- A filled group record (R60). -/
structure Group where
  number        : Byte
  owner         : Source
  state         : GState
  entryCount    : Nat
  markerData    : Option MarkerData
  sealCause     : Option SealCause
  releaseEpoch  : Option (BitVec 16)
  ageDeadline   : Option Tick
  issued        : Nat
  acked         : Nat
  outstanding   : Nat
  failedLine    : Option Line
  pendingMarker : Option (Source × Tag)
  deriving DecidableEq, Repr

/-- A window record (R20) with its group queue, oldest first (R61). Bit k of `enables` stands for event kind k. -/
structure Window where
  state       : WState
  base        : Line
  size        : BitVec 32
  area        : AIdx
  trigger     : Trigger
  marker      : Option MarkerConfig
  policy      : Policy
  holdLimit   : BitVec 16
  ageLimit    : BitVec 16
  ageAction   : AgeAction
  enables     : BitVec 8
  nextGroup   : Byte
  frozenFrom  : Option FrozenFrom
  quiesceMode : Option QuiesceMode
  stats       : Stats
  groups      : List Group
  deriving DecidableEq, Repr

/-! ### The staging table (R41, R42, R46) -/

/-- An area record (R42). -/
structure Area where
  first : Nat
  count : Nat
  used  : Nat
  deriving DecidableEq, Repr

/-- State of a line entry (R46). -/
inductive EState where
  | staged
  | issued
  | failed
  deriving DecidableEq, Repr

/-- A USED slot: its number and the line entry it holds (R46). -/
structure Entry where
  slot     : Nat
  window   : WIdx
  group    : Byte
  line     : Line
  sequence : Nat
  data     : LineData
  valid    : Lanes
  state    : EState
  deriving DecidableEq, Repr

/-! ### The hold list (R145) -/

/-- Why a write is held (R145, R146). -/
inductive HoldReason where
  | conflict
  | queueFull
  | areaWait
  deriving DecidableEq, Repr

/-- A held write (R145). Its arrival position is its place in the list (log 26); `pending` says it is in the pending set
of R148. -/
structure Held where
  slot     : HoldNo
  source   : Source
  tag      : Tag
  window   : WIdx
  line     : Line
  lanes    : Lanes
  data     : LineData
  reason   : HoldReason
  deadline : Tick
  pending  : Bool
  deriving DecidableEq, Repr

/-! ### The event unit (R158, R159) -/

/-- The ten event kinds (R159). -/
inductive EventKind where
  | groupPublished
  | groupDiscarded
  | groupBroken
  | groupAged
  | groupFaulted
  | writeRefused
  | holdExpired
  | windowOffline
  | linkReset
  | resetDone
  deriving DecidableEq, Repr

/-- The cause values of R159. -/
inductive Cause where
  | manual
  | quiesce
  | linkReset
  | brokenEnd
  | epochBroken
  | abandon
  | areaFull
  | holdFull
  | areaWaitExpired
  | age
  | freeze
  | conflict
  | queueFull
  | markerMix
  | windowState
  | broken
  deriving DecidableEq, Repr

/-- What a block posts: the kind and the fields the block supplies (R158). -/
structure EventBody where
  kind   : EventKind
  window : Option WIdx
  group  : Option Byte
  source : Option Source
  cause  : Option Cause
  line   : Option Line
  deriving DecidableEq, Repr

/-- An event record (R158). -/
structure Event where
  seq  : Byte
  body : EventBody
  lost : Byte
  deriving DecidableEq, Repr

/-! ### The management port (R170, R174) -/

/-- States of the frame decoder (R170). -/
inductive Frame where
  | idle
  | command
  | operands
  | result
  | trailer
  deriving DecidableEq, Repr

/-! ### Stops -/

/-- Faults: none. The spec describes no behaviour that stops the part, so no meaning faults (log 24; safe). -/
inductive Fault where
  deriving DecidableEq, Repr

/-- Refusals. -/
inductive Refusal where
  /-- The arm of a command that has no meaning yet, raised by `exec` only. Safe: the model stops where the part goes on. -/
  | notModelled (mnemonic : String)
  deriving DecidableEq, Repr

/-! ### The state -/

/-- The state of the LW-416. -/
structure State where
  /-- commands waiting to be taken, first in first out -/
  pending       : List Instr
  /-- RESET_N is asserted (R19) -/
  resetAsserted : Bool
  /-- LINK_RST_N is asserted (R18) -/
  linkAsserted  : Bool
  /-- last sampled level of EPOCH_IN, true for high, by which the next edge is recognised (R88, R100) -/
  epochLevel    : Bool
  /-- the request standing on the upstream channel, not accepted yet (R2, R6) -/
  upWaiting     : Option UpRequest
  /-- the response sent last on the upstream response channel (R3) -/
  upSent        : Option UpResponse
  /-- the request issued last on the downstream request channel (R16) -/
  downSent      : Option DownRequest
  /-- transit table (R5): `none` is a free record -/
  transit       : Vector (Option Transit) 32
  /-- forwarder pending list, head first (R13) -/
  fwd           : List RecNo
  /-- downstream credits (R15) -/
  credits       : Vector Credit 32
  /-- downstream issue list, head first (R16) -/
  issue         : List DownRequest
  /-- last grant (R15) -/
  lastGrant     : Requester
  /-- window table (R20) -/
  windows       : Vector Window 16
  /-- area records (R42) -/
  areas         : Vector Area 8
  /-- the USED slots of the staging table, rising by slot number; a slot not listed is FREE (R41) -/
  slots         : List Entry
  /-- turn pointer of the drain engine; `none` is BEFORE_0 (R101) -/
  turn          : Option WIdx
  /-- hold list, oldest first (R145) -/
  holds         : List Held
  /-- epoch counter (R89) -/
  epochCounter  : BitVec 16
  /-- the epoch events on their way to each window, by epoch number, in the order of their edges (R88, R90) -/
  epochDue      : Vector (List (BitVec 16)) 16
  /-- event queue, oldest first (R161) -/
  events        : List Event
  /-- next sequence (R161) -/
  nextSeq       : Byte
  /-- pending lost count, saturating (R161, R162) -/
  lost          : Byte
  /-- frame decoder (R170) -/
  frame         : Frame
  /-- the bits of the byte under way, first one first: sampled on MDI in COMMAND and OPERANDS, clocked out on MDO in RESULT and
  TRAILER (R169, R170) -/
  shift         : List Bool
  /-- the bytes of the frame received so far: the command byte, then operand bytes (R170) -/
  received      : List Byte
  /-- result buffer: the bytes not clocked out yet of the status byte and the result bytes after it (R171) -/
  buffer        : List Byte
  /-- the whole bytes the master received on MDO since the fall of MSEL_N or, once a command is taken, since its taking: the
  model's own latch (log 22) -/
  masterRead    : List Byte
  /-- soft reset in progress (R184) -/
  softReset     : Bool
  /-- time count of µs ticks (R182) -/
  timeCount     : Tick
  deriving DecidableEq, Repr

/-- All four counts 0 (R20). -/
def Stats.zero : Stats := ⟨0, 0, 0, 0⟩

/-- A window record at its zero value (R20, R40), with an empty group queue (R87). -/
def Window.zero : Window where
  state       := .unused
  base        := 0
  size        := 0
  area        := 0
  trigger     := .marker
  marker      := some ⟨0, 0, .early⟩
  policy      := .refuse
  holdLimit   := 0
  ageLimit    := 0
  ageAction   := .seal
  enables     := 0
  nextGroup   := 0
  frozenFrom  := none
  quiesceMode := none
  stats       := Stats.zero
  groups      := []

/-- An area record at its zero value (R42, R59). -/
def Area.zero : Area := ⟨0, 0, 0⟩

/-- The block right after power-on reset, RESET_N released (the tables of R19, R40, R59, R87, R100, R127, R142, R157,
R168, R188). The pins and latches the spec leaves open at that moment: LINK_RST_N released, EPOCH_IN low, MSEL_N high,
nothing on the channels (DESIGN CHOICE, unsafe, log 11 and log 22). -/
def State.reset : State where
  pending       := []
  resetAsserted := false
  linkAsserted  := false
  epochLevel    := false
  upWaiting     := none
  upSent        := none
  downSent      := none
  transit       := Vector.replicate 32 none
  fwd           := []
  credits       := Vector.replicate 32 Credit.free
  issue         := []
  lastGrant     := .forwarder
  windows       := Vector.replicate 16 Window.zero
  areas         := Vector.replicate 8 Area.zero
  slots         := []
  turn          := none
  holds         := []
  epochCounter  := 0
  epochDue      := Vector.replicate 16 []
  events        := []
  nextSeq       := 0
  lost          := 0
  frame         := .idle
  shift         := []
  received      := []
  buffer        := []
  masterRead    := []
  softReset     := false
  timeCount     := 0

end Sys2Proof.Machine
end

