-- ==== Sys2Proof/Machine/Ops.lean ====
section
/-! DEFINITION. The named operations over the records: access to windows, groups, transit records and slots; lanes and line
data; posting of events (R160 to R162); statistics (R38); answers (R3, R5); freeing of slots (R56); triggers (R148).
Every meaning is built from these. -/

namespace Sys2Proof.Machine

/-! ### Lanes and line data -/

/-- `d` with the bytes of the lanes outside `lanes` at 0: a request and an entry carry no byte there (R2, R46). DESIGN CHOICE,
safe (log 20). -/
def restrict (lanes : Lanes) (d : LineData) : LineData :=
  Vector.ofFn fun i => if lanes.getLsbD i.val then d[i] else 0#8

/-- The bytes of `new` in `lanes`, those of `old` elsewhere (R48). -/
def overlay (lanes : Lanes) (new old : LineData) : LineData :=
  Vector.ofFn fun i => if lanes.getLsbD i.val then new[i] else old[i]

/-- The eight marker lanes of a marker lane group: 0-7, 8-15, 16-23 or 24-31 (R20). -/
def markerLanes (g : Fin 4) : Lanes := 0xFF#32 <<< (8 * g.val)

/-- The eight bytes of `d` in the marker lanes of `g`, in the order of the lanes (R70). -/
def markerOf (g : Fin 4) (d : LineData) : MarkerData :=
  Vector.ofFn fun j => d[8 * g.val + j.val]

/-- A line that carries marker `m` in the marker lanes of `g` (R105). -/
def markerLine (g : Fin 4) (m : MarkerData) : LineData :=
  Vector.ofFn fun i => if h : 8 * g.val ≤ i.val ∧ i.val < 8 * g.val + 8 then m[i.val - 8 * g.val] else 0#8

/-- The marker line of a window: base plus marker offset lines (R20, R105). -/
def Window.markerLine (x : Window) (m : MarkerConfig) : Line := x.base + m.offset.setWidth 35

/-- A window contains a line address between its base and its base plus (size − 1) lines (R10). -/
def Window.contains (x : Window) (l : Line) : Bool :=
  x.base.toNat ≤ l.toNat && l.toNat < x.base.toNat + x.size.toNat

/-- The states in which a window may hold groups (R27, R90). -/
def WState.live : WState → Bool
  | .unused => false
  | .offline => false
  | .online => true
  | .quiescing => true
  | .frozen => true

/-! ### Records of the tables -/

/-- Record of window `w`. -/
def State.win (s : State) (w : WIdx) : Window := s.windows[w]

/-- Window `w`'s record replaced. -/
def State.setWin (s : State) (w : WIdx) (x : Window) : State :=
  { s with windows := s.windows.set w.val x w.isLt }

/-- Window `w`'s record changed by `f`. -/
def State.modWin (s : State) (w : WIdx) (f : Window → Window) : State := s.setWin w (f (s.win w))

/-- Record of area `a`. -/
def State.area (s : State) (a : AIdx) : Area := s.areas[a]

/-- Area `a`'s record replaced. -/
def State.setArea (s : State) (a : AIdx) (x : Area) : State :=
  { s with areas := s.areas.set a.val x a.isLt }

/-- Transit record `t`, `none` when free. -/
def State.rcd (s : State) (t : RecNo) : Option Transit := s.transit[t]

/-- Transit record `t` replaced. -/
def State.setRcd (s : State) (t : RecNo) (x : Option Transit) : State :=
  { s with transit := s.transit.set t.val x t.isLt }

/-- Transit record `t` changed by `f` if it is not free. -/
def State.modRcd (s : State) (t : RecNo) (f : Transit → Transit) : State := s.setRcd t ((s.rcd t).map f)

/-- Credit `c`. -/
def State.credit (s : State) (c : CreditNo) : Credit := s.credits[c]

/-- Credit `c` replaced. -/
def State.setCredit (s : State) (c : CreditNo) (x : Credit) : State :=
  { s with credits := s.credits.set c.val x c.isLt }

/-- Every credit changed by `f`. -/
def State.mapCredits (s : State) (f : Credit → Credit) : State :=
  { s with credits := Vector.ofFn fun c => f s.credits[c] }

/-- The epoch events on their way to window `w` (R90). -/
def State.due (s : State) (w : WIdx) : List (BitVec 16) := s.epochDue[w]

/-- The epoch events on their way to window `w` replaced. -/
def State.setDue (s : State) (w : WIdx) (l : List (BitVec 16)) : State := { s with epochDue := s.epochDue.set w.val l w.isLt }

/-- The windows in the order in which an event of the whole part is taken at them: those of `order` first, then the others by
index. The spec leaves this order open (R86, R184). DESIGN CHOICE, safe (log 8). -/
def visitOrder (order : List WIdx) : List WIdx :=
  order.eraseDups ++ (List.finRange 16).filter (fun w => !order.contains w)

/-! ### The event unit -/

/-- The number of an event kind, its bit in the event enables (R176, R177). -/
def EventKind.code : EventKind → Nat
  | .groupPublished => 0
  | .groupDiscarded => 1
  | .groupBroken => 2
  | .groupAged => 3
  | .groupFaulted => 4
  | .writeRefused => 5
  | .holdExpired => 6
  | .windowOffline => 7
  | .linkReset => 8
  | .resetDone => 9

/-- An event is offered to the queue: recorded with the next sequence and the pending lost count (R161), or dropped and
counted when the queue holds 32 records (R162). -/
def State.offer (s : State) (e : EventBody) : State :=
  if s.events.length < Config.eventRecords then
    { s with events := s.events ++ [⟨s.nextSeq, e, s.lost⟩], nextSeq := s.nextSeq + 1, lost := 0 }
  else
    { s with lost := if s.lost = 255 then 255 else s.lost + 1 }

/-- A window-scoped event is posted for window `w`: offered if the window's event enables hold its kind (R160). -/
def State.post (s : State) (w : WIdx) (e : EventBody) : State :=
  if (s.win w).enables.getLsbD e.kind.code then s.offer e else s

/-- GROUP_PUBLISHED (R159). -/
def evGroupPublished (w : WIdx) (g : Group) : EventBody := ⟨.groupPublished, some w, some g.number, some g.owner, none, none⟩

/-- GROUP_DISCARDED (R159). -/
def evGroupDiscarded (w : WIdx) (g : Group) (c : Cause) : EventBody :=
  ⟨.groupDiscarded, some w, some g.number, some g.owner, some c, none⟩

/-- GROUP_BROKEN; `line` is absent for AGE and FREEZE (R159). -/
def evGroupBroken (w : WIdx) (g : Group) (c : Cause) (line : Option Line) : EventBody :=
  ⟨.groupBroken, some w, some g.number, some g.owner, some c, line⟩

/-- GROUP_AGED (R159). -/
def evGroupAged (w : WIdx) (g : Group) : EventBody := ⟨.groupAged, some w, some g.number, some g.owner, none, none⟩

/-- GROUP_FAULTED with the failed line (R159). -/
def evGroupFaulted (w : WIdx) (g : Group) (line : Line) : EventBody :=
  ⟨.groupFaulted, some w, some g.number, some g.owner, none, some line⟩

/-- WRITE_REFUSED (R159). -/
def evWriteRefused (w : WIdx) (src : Source) (c : Cause) (line : Line) : EventBody :=
  ⟨.writeRefused, some w, none, some src, some c, some line⟩

/-- HOLD_EXPIRED (R159). -/
def evHoldExpired (w : WIdx) (src : Source) (line : Line) : EventBody :=
  ⟨.holdExpired, some w, none, some src, none, some line⟩

/-- WINDOW_OFFLINE (R159). -/
def evWindowOffline (w : WIdx) : EventBody := ⟨.windowOffline, some w, none, none, none, none⟩

/-- LINK_RESET (R159). -/
def evLinkReset : EventBody := ⟨.linkReset, none, none, none, none, none⟩

/-- RESET_DONE (R159). -/
def evResetDone : EventBody := ⟨.resetDone, none, none, none, none, none⟩

/-! ### Statistics (R38) -/

/-- Window `w`'s published count advances by one, wrapping. -/
def State.bumpPublished (s : State) (w : WIdx) : State :=
  s.modWin w fun x => { x with stats := { x.stats with published := x.stats.published + 1 } }

/-- Window `w`'s discarded count advances by one, wrapping. -/
def State.bumpDiscarded (s : State) (w : WIdx) : State :=
  s.modWin w fun x => { x with stats := { x.stats with discarded := x.stats.discarded + 1 } }

/-- Window `w`'s broken count advances by one, wrapping. -/
def State.bumpBroken (s : State) (w : WIdx) : State :=
  s.modWin w fun x => { x with stats := { x.stats with broken := x.stats.broken + 1 } }

/-- Window `w`'s refused count advances by one, wrapping. -/
def State.bumpRefused (s : State) (w : WIdx) : State :=
  s.modWin w fun x => { x with stats := { x.stats with refused := x.stats.refused + 1 } }

/-! ### Transit records and answers (R3, R5, R7) -/

/-- The lowest-numbered free transit record; R5 leaves the choice open. DESIGN CHOICE, safe (log 6). -/
def State.freeRcd? (s : State) : Option RecNo := (List.finRange 32).find? fun t => (s.rcd t).isNone

/-- A record answered: its result fixed, its response due (R3, R7 ANSWER). -/
def Transit.answered (r : Transit) (res : Result) (data : Option LineData) : Transit :=
  { r with wait := .answer, result := some res, readData := data }

/-- The response of transit record `t` made due. -/
def State.answerRcd (s : State) (t : RecNo) (res : Result) (data : Option LineData) : State :=
  s.modRcd t fun r => r.answered res data

/-- The unanswered record on path GROUP with this source and tag. R9 lets no second one exist, since a duplicate takes path
NONE. -/
def State.groupRcd? (s : State) (src : Source) (tag : Tag) : Option RecNo :=
  (List.finRange 32).find? fun t =>
    match s.rcd t with
    | some r => r.source == src && r.tag == tag && r.path == .group && r.result.isNone
    | none => false

/-- The write of this source and tag is answered; nothing is answered when a link reset has dropped its record (R18). -/
def State.answerWrite (s : State) (src : Source) (tag : Tag) (res : Result) : State :=
  match s.groupRcd? src tag with
  | some t => s.answerRcd t res none
  | none => s

/-- The record of the write of this source and tag waits on another block (R7). -/
def State.waitWrite (s : State) (src : Source) (tag : Tag) (wt : Wait) : State :=
  match s.groupRcd? src tag with
  | some t => s.modRcd t fun r => { r with wait := wt }
  | none => s

/-! ### Group queues (R61) -/

/-- Window `w`'s oldest record. -/
def State.oldest (s : State) (w : WIdx) : Option Group := (s.win w).groups.head?

/-- Window `w`'s youngest record. -/
def State.youngest (s : State) (w : WIdx) : Option Group := (s.win w).groups.getLast?

/-- Window `w`'s oldest record replaced by `g`. -/
def State.setOldest (s : State) (w : WIdx) (g : Group) : State :=
  s.modWin w fun x => { x with groups := g :: x.groups.tail }

/-- Window `w`'s youngest record replaced by `g`. -/
def State.setYoungest (s : State) (w : WIdx) (g : Group) : State :=
  s.modWin w fun x => { x with groups := x.groups.dropLast ++ [g] }

/-- Record `g` is freed and leaves window `w`'s queue; the other records keep their order (R61). -/
def State.removeGroup (s : State) (w : WIdx) (g : Group) : State :=
  s.modWin w fun x => { x with groups := x.groups.erase g }

/-! ### Hold list triggers (R148) -/

/-- A trigger of window `w`: every write held for it becomes pending re-evaluation. -/
def State.windowTrigger (s : State) (w : WIdx) : State :=
  { s with holds := s.holds.map fun h => if h.window = w then { h with pending := true } else h }

/-- Window `w` is joined to area `a`: it is not UNUSED and names it (R43). -/
def Window.joined (x : Window) (a : AIdx) : Bool := x.state != .unused && x.area == a

/-- A trigger of area `a`: every AREA_WAIT write of a window joined to it becomes pending re-evaluation. -/
def State.areaTrigger (s : State) (a : AIdx) : State :=
  { s with holds := s.holds.map fun h =>
      if h.reason = .areaWait ∧ (s.win h.window).joined a = true then { h with pending := true } else h }

/-! ### Slots (R41, R49, R55, R56) -/

/-- The entry belongs to group `n` of window `w` (R46). -/
def Entry.ofGroup (e : Entry) (w : WIdx) (n : Byte) : Bool := e.window == w && e.group == n

/-- The slot lies in the extent of the area (R42). -/
def Area.holds (a : Area) (slot : Nat) : Bool := a.first ≤ slot && slot < a.first + a.count

/-- The list of USED slots with `e` in its place by slot number. -/
def insertEntry (e : Entry) : List Entry → List Entry
  | [] => [e]
  | x :: xs => if e.slot < x.slot then e :: x :: xs else x :: insertEntry e xs

/-- The lowest-numbered FREE slot of the extent of area `a` (R49). -/
def State.freeSlot? (s : State) (a : AIdx) : Option Nat :=
  (List.range' (s.area a).first (s.area a).count).find? fun k => !(s.slots.any fun e => e.slot == k)

/-- The entry of group `n` of window `w` at line `l` (R47). -/
def State.entryAt? (s : State) (w : WIdx) (n : Byte) (l : Line) : Option Entry :=
  s.slots.find? fun e => e.ofGroup w n && e.line == l

/-- Area `a`'s used count falls by `k` (R55, R56). -/
def State.lowerUsed (s : State) (a : AIdx) (k : Nat) : State :=
  s.setArea a { s.area a with used := (s.area a).used - k }

/-- Every slot group `n` of window `w` holds is freed, all together; the freeing of one or more slots is handed to the hold
unit, once for the group (R56, R148). -/
def State.freeGroupSlots (s : State) (w : WIdx) (n : Byte) : State :=
  let k := s.slots.countP fun e => e.ofGroup w n
  let a := (s.win w).area
  if k = 0 then s
  else ({ s with slots := s.slots.filter fun e => !e.ofGroup w n }.lowerUsed a k).areaTrigger a

/-- The slots in their canonical form: numbers strictly rising and below 512. -/
def slotsWf (l : List Entry) : Bool :=
  (l.map Entry.slot).Pairwise (· < ·) && l.all fun e => decide (e.slot < Config.stagingSlots)

end Sys2Proof.Machine
end

