-- ==== Sys2Proof/Machine/Flags.lean ====
section
/-! DEFINITION. The conditions and lines the block computes from its records: ready (R2), ALERT_N (R166), the waiting of the
arbiter's requesters (R15, R102), visibility of a group (R129), timers (R182). -/

namespace Sys2Proof.Machine

/-- The upstream port asserts ready: a free transit record, LINK_RST_N and RESET_N released (R2). -/
def State.upReady (s : State) : Bool := s.freeRcd?.isSome && !s.linkAsserted && !s.resetAsserted

/-- ALERT_N is driven low (asserted) while the event queue holds one or more records; it is high while RESET_N is asserted
(R166). -/
def State.alertAsserted (s : State) : Bool := !s.events.isEmpty && !s.resetAsserted

/-- The request presented on the downstream request channel: the head of the issue list (R16); nothing while RESET_N is
asserted (R19). -/
def State.presented (s : State) : Option DownRequest := if s.resetAsserted then none else s.issue.head?

/-- A deadline's tick has been reached: the time count is not before it, modulo 2^32. A deadline lies less than 65,536 ticks
ahead when it is set (R180, R182). DEDUCED, safe (log 16). -/
def State.reached (s : State) (deadline : Tick) : Bool := (s.timeCount - deadline).toNat < 2 ^ 31

/-- The states in which a group's bytes are seen by every reader (R129). -/
def GState.releasedOrLater : GState → Bool
  | .opened => false
  | .broken => false
  | .sealed => false
  | .released => true
  | .draining => true
  | .marking => true
  | .faulted => true

/-- The states whose slots make an exhausted area wait (R50): SEALED or later. -/
def GState.sealedOrLater : GState → Bool
  | .opened => false
  | .broken => false
  | .sealed => true
  | .released => true
  | .draining => true
  | .marking => true
  | .faulted => true

/-- The states in which a group can be discarded (R83): nothing of it has been released. -/
def GState.unreleased (g : GState) : Bool := !g.releasedOrLater

/-- Group `g` is visible to a read from `src` (R129). -/
def Group.visible (g : Group) (src : Source) : Bool :=
  match g.state with
  | .opened => g.owner == src
  | .broken => false
  | .sealed => g.owner == src
  | .released => true
  | .draining => true
  | .marking => true
  | .faulted => true

/-- A credit is HELD by DRAIN. -/
def Credit.isDrain : Credit → Bool
  | .drain _ => true
  | .free => false
  | .forwarder _ => false

/-- The credit serves an orphaned write of window `w` (R122). -/
def Credit.isOrphanOf (c : Credit) (w : WIdx) : Bool := c == .drain (.orphan w)

/-- How many credits are HELD by DRAIN, orphaned writes included (R107). -/
def State.drainHeld (s : State) : Nat := s.credits.toList.countP Credit.isDrain

/-- Window `w` has an orphaned drain write (R103). -/
def State.hasOrphan (s : State) (w : WIdx) : Bool := s.credits.toList.any fun c => c.isOrphanOf w

/-- The entry may be issued: its state is STAGED or FAILED (R102). -/
def EState.issuable : EState → Bool
  | .staged => true
  | .failed => true
  | .issued => false

/-- The entry of lower sequence of the two; the best found so far is kept on a tie (R106). -/
def lowerSequence (best : Option Entry) (e : Entry) : Option Entry :=
  match best with
  | none => some e
  | some b => if e.sequence < b.sequence then some e else some b

/-- The issuable entry of group `n` of window `w` with the lowest sequence (R106). -/
def State.nextEntry? (s : State) (w : WIdx) (n : Byte) : Option Entry :=
  (s.slots.filter fun e => e.ofGroup w n && e.state.issuable).foldl lowerSequence none

/-- A write the drain engine may name as the client of a grant (R102). -/
inductive Issuable where
  | entry (e : Entry)
  | marker
  deriving DecidableEq, Repr

/-- The issuable write window `w` offers, if any (R102, R106): an entry of its DRAINING group with fewer than 4 outstanding
drain writes, or the marker of its MARKING group with none. A MARKING group holds marker data (R62) and its window has a marker
line (R22). -/
def State.offers (s : State) (w : WIdx) : Option Issuable :=
  match s.oldest w with
  | none => none
  | some g =>
    match g.state with
    | .draining => if g.outstanding < Config.groupCredits then (s.nextEntry? w g.number).map Issuable.entry else none
    | .marking => if g.outstanding = 0 ∧ g.markerData.isSome ∧ (s.win w).marker.isSome then some .marker else none
    | .opened => none
    | .broken => none
    | .sealed => none
    | .released => none
    | .faulted => none

/-- The forwarder is waiting at the arbiter while its pending list is not empty (R13, R15). -/
def State.forwarderWaiting (s : State) : Bool := !s.fwd.isEmpty

/-- The drain engine is waiting at the arbiter: some window offers an issuable write, and fewer than 8 credits are HELD by
DRAIN (R15, R102). -/
def State.drainWaiting (s : State) : Bool :=
  (List.finRange 16).any (fun w => (s.offers w).isSome) && s.drainHeld < Config.drainCredits

/-- The lowest-numbered FREE credit (R15). -/
def State.freeCredit? (s : State) : Option CreditNo := (List.finRange 32).find? fun c => s.credit c == .free

/-- Every group queue is empty (R186). -/
def State.allQueuesEmpty (s : State) : Bool := (List.finRange 16).all fun w => (s.win w).groups.isEmpty

end Sys2Proof.Machine
end

