-- ==== Sys2Proof/Machine/Groups.lean ====
section
/-! DEFINITION. What happens to a write group, whatever command causes it: opening (R66), seal (R75), release (R94, R96), taking
by the drain engine and publication (R103, R104, R112), break (R80), discard (R83), abandonment (R121), and what happens to
its window with it: the end of a quiesce (R33), the freeze (R35), the return from FROZEN (R37); with the answers of held
writes (R149, R151, R153). -/

namespace Sys2Proof.Machine

/-! ### A write on path GROUP and its end -/

/-- A write the window controller takes: at its arrival, or re-evaluated out of hold slot `held` (R64, R149). -/
structure Write where
  source : Source
  tag    : Tag
  window : WIdx
  line   : Line
  lanes  : Lanes
  data   : LineData
  held   : Option HoldNo
  deriving DecidableEq, Repr

/-- The held write, as it is taken again (R145: "used at each re-evaluation"). -/
def Held.toWrite (h : Held) : Write := ⟨h.source, h.tag, h.window, h.line, h.lanes, h.data, some h.slot⟩

/-- Hold slot `k` is freed. -/
def State.dropHold (s : State) (k : HoldNo) : State := { s with holds := s.holds.filter fun h => h.slot != k }

/-- The write leaves the hold list if it stands there (R149). -/
def State.endHold (s : State) (x : Write) : State :=
  match x.held with
  | some k => s.dropHold k
  | none => s

/-- The write is answered and its hold, if any, ends. -/
def State.endWrite (s : State) (x : Write) (res : Result) : State := (s.endHold x).answerWrite x.source x.tag res

/-- The write is refused: answered REFUSED, WRITE_REFUSED posted, the refused count advanced (R64, R144). -/
def State.refuseWrite (s : State) (x : Write) (c : Cause) : State :=
  ((s.endWrite x .refused).post x.window (evWriteRefused x.window x.source c x.line)).bumpRefused x.window

/-- Every write held for window `w` is answered REFUSED with cause WINDOW_STATE, oldest first (R153). -/
def State.refuseHeld (s : State) (w : WIdx) : State :=
  (s.holds.filter fun h => h.window == w).foldl (fun s h => s.refuseWrite h.toWrite .windowState) s

/-! ### Break (R80) -/

/-- The youngest record, if OPEN, becomes BROKEN: its entries are freed, its age deadline is absent, GROUP_BROKEN is posted
and the broken count advances. "A break cause that reaches a window whose youngest record is not OPEN … changes nothing." -/
def State.breakOpen (s : State) (w : WIdx) (c : Cause) (line : Option Line) : State :=
  match s.youngest w with
  | some g =>
    if g.state = .opened then
      (((s.freeGroupSlots w g.number).setYoungest w { g with state := .broken, entryCount := 0, ageDeadline := none }).post w
        (evGroupBroken w g c line)).bumpBroken w
    else s
  | none => s

/-! ### Opening (R66) and seal (R75) -/

/-- The record of a group at its opening (R60, column "at opening"). -/
def Group.opening (number : Byte) (owner : Source) (deadline : Option Tick) : Group where
  number        := number
  owner         := owner
  state         := .opened
  entryCount    := 0
  markerData    := none
  sealCause     := none
  releaseEpoch  := none
  ageDeadline   := deadline
  issued        := 0
  acked         := 0
  outstanding   := 0
  failedLine    := none
  pendingMarker := none

/-- The age deadline of a group opened now in window `x`: absent when the age limit is 0 (R60, R66). -/
def State.ageDeadline (s : State) (x : Window) : Option Tick :=
  if x.ageLimit = 0 then none else some (s.timeCount + x.ageLimit.setWidth 32)

/-- A group of owner `src` opens at the tail of window `w`'s queue and takes the next group number (R25, R66). -/
def State.openGroup (s : State) (w : WIdx) (src : Source) : State :=
  s.modWin w fun x =>
    { x with groups := x.groups ++ [Group.opening x.nextGroup src (s.ageDeadline x)], nextGroup := x.nextGroup + 1 }

/-- The record of a group after its seal (R75); `pm` is the pending marker response of a LATE marker seal (R73). -/
def Group.sealedBy (g : Group) (c : SealCause) (m : Option MarkerData) (pm : Option (Source × Tag)) : Group :=
  { g with state := .sealed, sealCause := some c, markerData := m, ageDeadline := none, pendingMarker := pm }

/-- The youngest record, if OPEN, is sealed, and the seal is handed to the hold unit (R75, R148). -/
def State.sealOpen (s : State) (w : WIdx) (c : SealCause) (m : Option MarkerData) (pm : Option (Source × Tag)) : State :=
  match s.youngest w with
  | some g => if g.state = .opened then (s.setYoungest w (g.sealedBy c m pm)).windowTrigger w else s
  | none => s

/-! ### Publication and taking (R103, R104, R112) -/

/-- A pending LATE marker response is made due with the result `res` (R74). -/
def State.answerPending (s : State) (g : Group) (res : Result) : State :=
  match g.pendingMarker with
  | some (src, tag) => s.answerWrite src tag res
  | none => s

/-- A QUIESCING window whose queue is empty becomes OFFLINE and WINDOW_OFFLINE is posted (R33). -/
def State.offlineIfEmpty (s : State) (w : WIdx) : State :=
  if (s.win w).state = .quiescing ∧ (s.win w).groups = [] then
    (s.modWin w fun x => { x with state := .offline, quiesceMode := none }).post w (evWindowOffline w)
  else s

/-- Steps 1 to 3 and 6 of R112 for the oldest record `g` of window `w`: GROUP_PUBLISHED and the published count, the LATE
marker's DONE, the record freed, the freeing handed to the hold unit. -/
def State.publishOldest (s : State) (w : WIdx) (g : Group) : State :=
  ((((s.post w (evGroupPublished w g)).bumpPublished w).answerPending g .done).modWin w fun x =>
    { x with groups := x.groups.tail }).windowTrigger w

/-- The conditions of R103 for the oldest record `g` of window `w`. -/
def State.canTake (s : State) (w : WIdx) (g : Group) : Bool :=
  g.state == .released && (s.win w).state != .frozen && !s.hasOrphan w

/-- The record of a group as the drain engine takes it (R103). -/
def Group.taken (g : Group) : Group :=
  { g with state := .draining, issued := 0, acked := 0, outstanding := 0, failedLine := none }

/-- The drain engine takes window `w`'s oldest record if R103 lets it; an empty group with marker data becomes MARKING, and
one without publishes, after which the next record is tested (R104, R112 step 4). `fuel` bounds the records of the queue. -/
def State.takeLoop : Nat → State → WIdx → State
  | 0, s, _ => s
  | fuel + 1, s, w =>
    match s.oldest w with
    | none => s
    | some g =>
      if s.canTake w g then
        if g.entryCount = 0 then
          match g.markerData with
          | some _ => s.setOldest w { g.taken with state := .marking }
          | none => State.takeLoop fuel ((s.setOldest w g.taken).publishOldest w g.taken) w
        else s.setOldest w g.taken
      else s

/-- The drain engine tests R103 for window `w`, and an empty QUIESCING queue ends the quiesce (R112 step 5). -/
def State.drainTake (s : State) (w : WIdx) : State :=
  (State.takeLoop (s.win w).groups.length s w).offlineIfEmpty w

/-- Window `w`'s oldest record `g` publishes (R112). -/
def State.publish (s : State) (w : WIdx) (g : Group) : State := (s.publishOldest w g).drainTake w

/-! ### Release (R94, R96, R31) -/

/-- The record after a release; a release by command or by a MARKER-mode seal has no release epoch (R94, R96). -/
def Group.releasedAt (g : Group) (e : Option (BitVec 16)) : Group :=
  if g.state = .sealed then { g with state := .released, releaseEpoch := e } else g

/-- Window `w` holds a SEALED group. -/
def State.holdsSealed (s : State) (w : WIdx) : Bool := (s.win w).groups.any fun g => g.state == .sealed

/-- Every SEALED group of window `w` becomes RELEASED (R94). -/
def State.releaseSealed (s : State) (w : WIdx) (e : Option (BitVec 16)) : State :=
  s.modWin w fun x => { x with groups := x.groups.map fun g => g.releasedAt e }

/-- Every SEALED group of window `w` is released and handed to the drain engine (R94, R103); nothing happens where there is
none. -/
def State.releaseAll (s : State) (w : WIdx) (e : Option (BitVec 16)) : State :=
  if s.holdsSealed w then (s.releaseSealed w e).drainTake w else s

/-- What follows a seal by a marker, SEAL or age: in MARKER mode the group is released at once (R76). -/
def State.afterSeal (s : State) (w : WIdx) : State :=
  match (s.win w).trigger with
  | .marker => s.releaseAll w none
  | .markerEpoch => s
  | .epoch => s

/-! ### Discard (R83) and abandonment (R121) -/

/-- Step 2 of R83: a pending LATE marker response is answered REFUSED and counted; no WRITE_REFUSED is posted. -/
def State.refusePending (s : State) (w : WIdx) (g : Group) : State :=
  match g.pendingMarker with
  | some _ => (s.answerPending g .refused).bumpRefused w
  | none => s

/-- Group `g` of window `w` is discarded with cause `c` (R83), its end handed to the hold unit (R148). -/
def State.discardGroup (s : State) (w : WIdx) (g : Group) (c : Cause) : State :=
  ((((((s.freeGroupSlots w g.number).refusePending w g).post w (evGroupDiscarded w g c)).bumpDiscarded w).removeGroup w
    g).windowTrigger w)

/-- The OPEN or BROKEN group and every SEALED group of window `w` are discarded, oldest first (R32, R84). -/
def State.discardUnreleased (s : State) (w : WIdx) (c : Cause) : State :=
  ((s.win w).groups.filter fun g => g.state.unreleased).foldl (fun s g => s.discardGroup w g c) s

/-- The youngest record is discarded if it is in the state `st`. -/
def State.discardYoungestIf (s : State) (w : WIdx) (st : GState) (c : Cause) : State :=
  match s.youngest w with
  | some g => if g.state = st then s.discardGroup w g c else s
  | none => s

/-- A credit of a write of group `n` of window `w` becomes an orphaned write of `w` (R121 step 2). -/
def Credit.orphaned (c : Credit) (w : WIdx) (n : Byte) : Credit :=
  match c with
  | .free => .free
  | .forwarder cl => .forwarder cl
  | .drain (.entry v m q) => if v = w ∧ m = n then .drain (.orphan w) else .drain (.entry v m q)
  | .drain (.marker v m) => if v = w ∧ m = n then .drain (.orphan w) else .drain (.marker v m)
  | .drain (.orphan v) => .drain (.orphan v)

/-- The oldest record of window `w`, if FAULTED, is abandoned (R121); then R103 and R33 are tested for the window. -/
def State.abandonFaulted (s : State) (w : WIdx) : State :=
  match s.oldest w with
  | some g =>
    if g.state = .faulted then
      (((((((s.freeGroupSlots w g.number).mapCredits fun c => c.orphaned w g.number).answerPending g .failed).post w
        (evGroupDiscarded w g .abandon)).bumpDiscarded w).modWin w fun x => { x with groups := x.groups.tail }).windowTrigger
        w).drainTake w
    else s
  | none => s

/-! ### Freeze (R35, R114, R115) and return (R37) -/

/-- The window's record after the freeze (R35): FROZEN, frozen-from recorded, the quiesce mode absent. -/
def Window.freeze (x : Window) : Window :=
  match x.state with
  | .online => { x with state := .frozen, frozenFrom := some .online, quiesceMode := none }
  | .quiescing => { x with state := .frozen, frozenFrom := some .quiescing, quiesceMode := none }
  | .unused => x
  | .offline => x
  | .frozen => x

/-- Window `w` freezes behind its faulted group `g`: steps 3 and 4 of R114, the events in the order given there. -/
def State.freezeWindow (s : State) (w : WIdx) (g : Group) (line : Line) : State :=
  (((s.modWin w Window.freeze).post w (evGroupFaulted w g line)).refuseHeld w).breakOpen w .freeze none

/-- The window's record after its return to frozen-from; a return to QUIESCING takes quiesce mode DROP (R37). -/
def Window.unfreeze (x : Window) : Window :=
  match x.state, x.frozenFrom with
  | .frozen, some .online => { x with state := .online, frozenFrom := none }
  | .frozen, some .quiescing => { x with state := .quiescing, frozenFrom := none, quiesceMode := some .drop }
  | _, _ => x

/-! ### Quiesce (R30 to R32) -/

/-- Window `w`, ONLINE, quiesces with DROP: held writes refused, unreleased groups discarded, the end tested (R30, R32). -/
def State.quiesceDrop (s : State) (w : WIdx) : State :=
  ((((s.modWin w fun x => { x with state := .quiescing, quiesceMode := some .drop }).refuseHeld w).discardUnreleased w
    .quiesce).offlineIfEmpty w)

/-- Window `w`, ONLINE, quiesces with FINISH: held writes refused, the open group sealed MANUAL, a broken group discarded,
every SEALED group released without release epoch, the end tested (R30, R31). The drain engine takes after the command's own
effects (R103; log 19). -/
def State.quiesceFinish (s : State) (w : WIdx) : State :=
  (((((s.modWin w fun x => { x with state := .quiescing, quiesceMode := some .finish }).refuseHeld w).sealOpen w .manual none
    none).discardYoungestIf w .broken .quiesce).releaseAll w none).offlineIfEmpty w

/-! ### The end of a soft reset (R186, R168) -/

/-- The soft reset ends: windows, areas and slots take their zero values, the turn pointer becomes BEFORE_0, the event queue
is emptied and RESET_DONE recorded (R186, R40 step 5, R59, R126, R168). -/
def State.endSoftReset (s : State) : State :=
  { s with
    windows := Vector.replicate 16 Window.zero
    areas := Vector.replicate 8 Area.zero
    slots := []
    turn := none
    events := []
    lost := 0
    nextSeq := 0
    softReset := false }.offer evResetDone

/-- The end of a taking during a soft reset: it ends when every group queue is empty (R186). -/
def State.softResetCheck (s : State) : State := if s.softReset ∧ s.allQueuesEmpty = true then s.endSoftReset else s

end Sys2Proof.Machine
end

