-- ==== Sys2Proof/Machine/Epoch.lean ====
section
/-! DEFINITION. EPOCH_EVENT: the samples of EPOCH_IN, the epoch counter, the events on their way to the windows and their delivery (R88 to R95). -/

namespace Sys2Proof.Machine

/-- In EPOCH mode the OPEN group is sealed with cause EPOCH (R92), or the BROKEN group discarded with cause EPOCH_BROKEN (R93). -/
def State.epochClose (s : State) (w : WIdx) : State :=
  (s.sealOpen w .epoch none none).discardYoungestIf w .broken .epochBroken

/-- The epoch event with number `e` at window `w`, by its trigger mode (R91); the groups sealed are released with release epoch
`e` (R94). -/
def State.epochAct (s : State) (e : BitVec 16) (w : WIdx) : State :=
  match (s.win w).trigger with
  | .marker => s
  | .markerEpoch => s.releaseAll w (some e)
  | .epoch => (s.epochClose w).releaseAll w (some e)

/-- The epoch event with number `e` taken at window `w`: no effect in UNUSED and OFFLINE (R90). -/
def State.epochAt (s : State) (e : BitVec 16) (w : WIdx) : State :=
  if (s.win w).state.live then s.epochAct e w else s

/-- A rising edge of EPOCH_IN: the counter advances, and the event with the number so reached is on its way to every window, behind
those of earlier edges, merged with none (R88 to R90). The last sampled level is high after it. -/
def State.epochEdge (s : State) : State :=
  let e := s.epochCounter + 1
  { s with epochCounter := e, epochLevel := true, epochDue := s.epochDue.map fun l => l ++ [e] }

/-- The epoch unit samples EPOCH_IN: a change from low to high against the last sampled level is a rising edge; the falling edge and a
level that stays have no effect but the level itself (R88). So with EPOCH_IN high at the release of RESET_N the first edge is the
first rise after a sample that is low. Whether a pulse shorter than the minimum is seen is for the levels that the command brings
(log 10). -/
def State.epochSample (s : State) (high : Bool) : State :=
  if high && !s.epochLevel then s.epochEdge else { s with epochLevel := high }

/-- The oldest epoch event on its way to window `w` is taken there (R90: "epoch events reach each window in the order of their
edges"); nothing where none is on its way (log 5). -/
def State.epochDeliver (s : State) (w : WIdx) : State :=
  match s.due w with
  | [] => s
  | e :: rest => (s.setDue w rest).epochAt e w

/-- The samples of EPOCH_IN, one after another, then the delivery at each window of `d`. Where a window is not named, its event stays on its way,
and other takings may come before it (R90; log 9). -/
def State.epochEvent (s : State) (d : EpochDelivery) : State :=
  d.windows.foldl State.epochDeliver (d.levels.foldl State.epochSample s)

/-- EPOCH_EVENT; while RESET_N is asserted EPOCH_IN is not sampled and no epoch event is taken (R88). -/
def execEpochEvent (d : EpochDelivery) (s : State) : Host.Outcome State Fault Refusal :=
  .next (if s.resetAsserted then s else s.epochEvent d)

/-- The lowest window that an epoch event is on its way to. -/
def State.dueWindow? (s : State) : Option WIdx :=
  if s.resetAsserted then none else (List.finRange 16).find? fun w => !(s.due w).isEmpty

end Sys2Proof.Machine
end

