-- ==== Sys2Proof/Machine/Merge.lean ====
section
/-! DEFINITION. The read merge unit: visibility, snapshot and answer of a MERGE read (R128 to R135). -/

namespace Sys2Proof.Machine

/-- What one visible group offers a read of a line: its entry at the line, if any, and its marker data, if any (R130, R131). -/
structure Layer where
  entry  : Option Entry
  marker : Option MarkerData
  deriving DecidableEq, Repr

/-- The layers a read from `src` at line `l` of window `w` sees, youngest group first (R129, R130). -/
def State.layers (s : State) (w : WIdx) (src : Source) (l : Line) : List Layer :=
  (((s.win w).groups.filter fun g => g.visible src).reverse).map fun g => ⟨s.entryAt? w g.number l, g.markerData⟩

/-- The byte an entry holds in lane `i`, if the lane is valid (R130). -/
def Entry.laneByte (e : Entry) (i : Fin 32) : Option Byte := if e.valid.getLsbD i.val then some e.data[i] else none

/-- The byte a layer gives lane `i` from its entry (R130). -/
def Layer.dataByte (x : Layer) (i : Fin 32) : Option Byte :=
  match x.entry with
  | some e => e.laneByte i
  | none => none

/-- The byte a layer gives lane `i`, one of the marker lanes of group `lg`, from its marker data (R131). -/
def Layer.markerByte (x : Layer) (lg : Fin 4) (i : Fin 32) : Option Byte :=
  match x.marker with
  | some m => some (markerLine lg m)[i]
  | none => none

/-- The byte the snapshot takes for an enabled lane: from the first layer that holds it. At the window's marker line the
marker lanes are looked up in the marker data alone (R131), every other lane in the entries (R130). -/
def Window.snapByte (x : Window) (l : Line) (ls : List Layer) (i : Fin 32) : Option Byte :=
  match x.marker with
  | none => ls.findSome? fun y => y.dataByte i
  | some m =>
    if l = x.markerLine m ∧ (markerLanes m.laneGroup).getLsbD i.val = true then
      ls.findSome? fun y => y.markerByte m.laneGroup i
    else ls.findSome? fun y => y.dataByte i

/-- The snapshot of a read from `src` of the lanes `lanes` of line `l` in window `w` (R130, R131). -/
def State.snapshot (s : State) (w : WIdx) (src : Source) (l : Line) (lanes : Lanes) : Snapshot :=
  let ls := s.layers w src l
  Vector.ofFn fun i => if lanes.getLsbD i.val then (s.win w).snapByte l ls i else none

/-- The snapshot's lane set holds every lane of `lanes` (R132). -/
def Snapshot.covers (p : Snapshot) (lanes : Lanes) : Bool :=
  (List.finRange 32).all fun i => !lanes.getLsbD i.val || (p[i]).isSome

/-- The data of the response: the snapshot's byte in each covered lane, `mem`'s in the other enabled lanes (R132, R134). -/
def Snapshot.overlaid (p : Snapshot) (lanes : Lanes) (mem : LineData) : LineData :=
  Vector.ofFn fun i => if lanes.getLsbD i.val then (p[i]).getD mem[i] else 0#8

/-- The read merge unit takes the read of record `t`: answered from the snapshot when it covers every enabled lane (R132),
otherwise kept with its snapshot and placed in the forwarder's pending list (R133). -/
def State.takeRead (s : State) (t : RecNo) (w : WIdx) (src : Source) (l : Line) (lanes : Lanes) : State :=
  let p := s.snapshot w src l lanes
  if Snapshot.covers p lanes then
    s.modRcd t fun r => { r.answered .done (some (Snapshot.overlaid p lanes LineData.zero)) with snapshot := some p }
  else
    { s.modRcd t (fun r => { r with wait := .credit, snapshot := some p }) with fwd := s.fwd ++ [t] }

end Sys2Proof.Machine
end

