-- ==== Sys2Proof/Machine/Staging.lean ====
section
/-! DEFINITION. A write on path GROUP: its shape (R65), the tests of R64 in their order, staging, coalescing and exhaustion
(R47 to R53, R68), the hold (R146, R147), the marker (R70 to R73). The same tests serve an arrival and a re-evaluation. -/

namespace Sys2Proof.Machine

/-! ### Shape (R65) -/

/-- What a write on path GROUP is (R65). -/
inductive Shape where
  | data
  | marker (g : Fin 4) (c : Completion)
  | mix
  deriving DecidableEq, Repr

/-- The sort of R65: by the byte enable set at the marker line; a write at any other line, and every write in EPOCH mode, is
a data write. -/
def Window.shape (x : Window) (l : Line) (lanes : Lanes) : Shape :=
  match x.marker with
  | none => .data
  | some m =>
    if l = x.markerLine m then
      if lanes = markerLanes m.laneGroup then .marker m.laneGroup m.completion
      else if lanes &&& markerLanes m.laneGroup = 0 then .data
      else .mix
    else .data

/-! ### The hold (R146, R147) -/

/-- The lowest-numbered free hold slot (R145). -/
def State.freeHold? (s : State) : Option HoldNo :=
  (List.finRange 8).find? fun k => !(s.holds.any fun h => h.slot == k)

/-- The held write in hold slot `k`. -/
def State.heldAt? (s : State) (k : HoldNo) : Option Held := s.holds.find? fun h => h.slot == k

/-- The record of a write first held now (R145): last in the list, its deadline the present tick plus the hold limit. -/
def State.newHeld (s : State) (x : Write) (k : HoldNo) (r : HoldReason) : Held :=
  ⟨k, x.source, x.tag, x.window, x.line, x.lanes, x.data, r,
    s.timeCount + (s.win x.window).holdLimit.setWidth 32, false⟩

/-- The write is held with reason `r` (R146). A re-evaluated write keeps its slot, place and deadline and takes the new
reason (R149); an arriving write that finds no free slot is refused with HOLD_FULL, and under AREA_WAIT its writer's open
group breaks (R147, R52). -/
def State.holdWrite (s : State) (x : Write) (r : HoldReason) : State :=
  match x.held with
  | some k => { s with holds := s.holds.map fun h => if h.slot = k then { h with reason := r } else h }
  | none =>
    match s.freeHold? with
    | some k => ({ s with holds := s.holds ++ [s.newHeld x k r] }).waitWrite x.source x.tag .hold
    | none =>
      match r with
      | .areaWait => (s.refuseWrite x .holdFull).breakOpen x.window .holdFull (some x.line)
      | .conflict => s.refuseWrite x .holdFull
      | .queueFull => s.refuseWrite x .holdFull

/-! ### Staging (R47 to R53, R68) -/

/-- The entry after a coalescing write (R48): its bytes in the enabled lanes, the lanes joined. -/
def Entry.coalesced (e : Entry) (x : Write) : Entry :=
  { e with data := overlay x.lanes x.data e.data, valid := e.valid ||| x.lanes }

/-- The write coalesces into the entry of slot `e` and is answered DONE (R48, R68). -/
def State.coalesce (s : State) (x : Write) (e : Entry) : State :=
  ({ s with slots := s.slots.map fun (y : Entry) => if y.slot = e.slot then y.coalesced x else y }).endWrite x .done

/-- A new line entry in the FREE slot `k` (R49). -/
def newEntry (x : Write) (g : Group) (k : Nat) : Entry :=
  ⟨k, x.window, g.number, x.line, g.entryCount, restrict x.lanes x.data, x.lanes, .staged⟩

/-- The write takes the FREE slot `k` for a new entry of the open group `g` and is answered DONE (R49, R68). -/
def State.allocate (s : State) (x : Write) (g : Group) (k : Nat) : State :=
  let a := (s.win x.window).area
  let s1 := { s with slots := insertEntry (newEntry x g k) s.slots }
  let s2 := s1.setArea a { s1.area a with used := (s1.area a).used + 1 }
  (s2.setYoungest x.window { g with entryCount := g.entryCount + 1 }).endWrite x .done

/-- The group an entry belongs to is SEALED or later (R50). -/
def State.entryWaits (s : State) (e : Entry) : Bool :=
  (s.win e.window).groups.any fun g => g.number == e.group && g.state.sealedOrLater

/-- Some USED slot of area `a` belongs to a group SEALED or later (R50). -/
def State.areaWillFree (s : State) (a : AIdx) : Bool :=
  s.slots.any fun e => (s.area a).holds e.slot && s.entryWaits e

/-- The exhaustion decision (R50): held with AREA_WAIT, or refused with HOLD_FULL and a break (R52), or refused with AREA_FULL
and a break (R53). -/
def State.exhausted (s : State) (x : Write) : State :=
  if s.areaWillFree (s.win x.window).area then s.holdWrite x .areaWait
  else (s.refuseWrite x .areaFull).breakOpen x.window .areaFull (some x.line)

/-- An owner's data write is staged into the open group `g` (R68): coalesced, allocated, or met by the exhaustion decision. -/
def State.stage (s : State) (x : Write) (g : Group) : State :=
  match s.entryAt? x.window g.number x.line with
  | some e => s.coalesce x e
  | none =>
    match s.freeSlot? (s.win x.window).area with
    | some k => s.allocate x g k
    | none => s.exhausted x

/-! ### The marker (R70 to R73) -/

/-- An owner's marker write seals its open group and is answered under the window's marker completion: DONE at once (EARLY,
R72), or left waiting for the group's end (LATE, R73); then R76 applies. -/
def State.markerSeal (s : State) (x : Write) (lg : Fin 4) (c : Completion) : State :=
  match c with
  | .early => ((s.endWrite x .done).sealOpen x.window .marker (some (markerOf lg x.data)) none).afterSeal x.window
  | .late =>
    (((s.endHold x).waitWrite x.source x.tag .publication).sealOpen x.window .marker (some (markerOf lg x.data))
      (some (x.source, x.tag))).afterSeal x.window

/-! ### The tests of R64 -/

/-- What a data write or a marker write of the open group's owner does (R64 test 3). -/
def State.ownerWrite (s : State) (x : Write) (sh : Shape) (g : Group) : State :=
  match sh with
  | .data => s.stage x g
  | .marker lg c => s.markerSeal x lg c
  | .mix => s.refuseWrite x .markerMix

/-- Test 4 of R64: an owner's write meets its BROKEN group; a marker write also ends the group (R81). -/
def State.brokenWrite (s : State) (x : Write) (sh : Shape) (g : Group) : State :=
  match sh with
  | .data => s.refuseWrite x .broken
  | .marker _ _ => (s.refuseWrite x .broken).discardGroup x.window g .brokenEnd
  | .mix => s.refuseWrite x .markerMix

/-- A conflict under the window's conflict policy (R144). -/
def State.conflictWrite (s : State) (x : Write) : State :=
  match (s.win x.window).policy with
  | .refuse => s.refuseWrite x .conflict
  | .hold => s.holdWrite x .conflict

/-- Test 5 of R64: the queue holds 4 records, none OPEN or BROKEN (R67). -/
def State.queueFullWrite (s : State) (x : Write) : State :=
  match (s.win x.window).policy with
  | .refuse => s.refuseWrite x .queueFull
  | .hold => s.holdWrite x .queueFull

/-- Test 6 of R64: a group opens with the writer as owner, and the write proceeds within the same taking (R66). -/
def State.openingWrite (s : State) (x : Write) (sh : Shape) : State :=
  let s1 := s.openGroup x.window x.source
  match s1.youngest x.window with
  | some g => s1.ownerWrite x sh g
  | none => s1

/-- Tests 5 and 6 of R64: no OPEN or BROKEN group. -/
def State.newGroupWrite (s : State) (x : Write) (sh : Shape) : State :=
  if (s.win x.window).groups.length < Config.groupRecords then s.openingWrite x sh else s.queueFullWrite x

/-- Tests 2 to 6 of R64 for a write whose shape is not MARKER_MIX. -/
def State.groupTests (s : State) (x : Write) (sh : Shape) : State :=
  match s.youngest x.window with
  | none => s.newGroupWrite x sh
  | some g =>
    match g.state with
    | .opened => if g.owner = x.source then s.ownerWrite x sh g else s.conflictWrite x
    | .broken => if g.owner = x.source then s.brokenWrite x sh g else s.conflictWrite x
    | .sealed => s.newGroupWrite x sh
    | .released => s.newGroupWrite x sh
    | .draining => s.newGroupWrite x sh
    | .marking => s.newGroupWrite x sh
    | .faulted => s.newGroupWrite x sh

/-- A write into an ONLINE window: the tests of R64 in their order. -/
def State.onlineWrite (s : State) (x : Write) : State :=
  match (s.win x.window).shape x.line x.lanes with
  | .mix => s.refuseWrite x .markerMix
  | .data => s.groupTests x .data
  | .marker g c => s.groupTests x (.marker g c)

/-- A write on path GROUP as the window controller takes it: refused with WINDOW_STATE in a QUIESCING or FROZEN window before
any other test (R26), tested by R64 in an ONLINE one. No write is routed here for an UNUSED or OFFLINE window (R10). -/
def State.takeWrite (s : State) (x : Write) : State :=
  match (s.win x.window).state with
  | .online => s.onlineWrite x
  | .quiescing => s.refuseWrite x .windowState
  | .frozen => s.refuseWrite x .windowState
  | .unused => s.refuseWrite x .windowState
  | .offline => s.refuseWrite x .windowState

end Sys2Proof.Machine
end

