-- ==== Sys2Proof/Machine/Ports.lean ====
section
/-! DEFINITION. The commands at the two memory ports: UPSTREAM_REQUEST, UPSTREAM_RESPONSE, GRANT, DOWNSTREAM_ISSUE and
DOWNSTREAM_RESPONSE (chapters 1, 6 and 7). While RESET_N is asserted none of them acts (R19). -/

namespace Sys2Proof.Machine

/-! ### UPSTREAM_REQUEST (R2, R5, R8 to R10) -/

/-- The transit record of a request as it is accepted, before its path is known (R5). -/
def acceptedRecord (r : UpRequest) : Transit where
  source   := r.source
  tag      := r.tag
  kind     := r.kind
  line     := r.line
  lanes    := r.lanes
  data     := match r.kind with
    | .read => LineData.zero
    | .write => restrict r.lanes r.data
  path     := .noPath
  window   := none
  wait     := .answer
  result   := none
  readData := none
  snapshot := none

/-- Another transit record holds the same source and tag (R9). -/
def State.isDuplicate (s : State) (r : UpRequest) : Bool :=
  s.transit.toList.any fun o =>
    match o with
    | some x => x.source == r.source && x.tag == r.tag
    | none => false

/-- The window that contains a line and is not UNUSED (R10, R23: at most one does). -/
def State.windowAt? (s : State) (l : Line) : Option WIdx :=
  (List.finRange 16).find? fun w => (s.win w).state != .unused && (s.win w).contains l

/-- The request takes record `t` on path PASS and joins the forwarder's pending list (R10, R13). -/
def State.passRequest (s : State) (t : RecNo) (r : UpRequest) : State :=
  { s.setRcd t (some { acceptedRecord r with path := .pass, wait := .credit }) with fwd := s.fwd ++ [t] }

/-- The write as the window controller takes it at its arrival. -/
def arrivalWrite (r : UpRequest) (w : WIdx) : Write := ⟨r.source, r.tag, w, r.line, r.lanes, restrict r.lanes r.data, none⟩

/-- A request in the range of window `w`, which is neither UNUSED nor OFFLINE: a READ is merged, a WRITE goes to the window
controller (R10). -/
def State.windowRequest (s : State) (t : RecNo) (r : UpRequest) (w : WIdx) : State :=
  match r.kind with
  | .read =>
    (s.setRcd t (some { acceptedRecord r with path := .merge, window := some w })).takeRead t w r.source r.line r.lanes
  | .write => (s.setRcd t (some { acceptedRecord r with path := .group, window := some w })).takeWrite (arrivalWrite r w)

/-- The classifier routes the request (R10). -/
def State.classify (s : State) (t : RecNo) (r : UpRequest) : State :=
  match s.windowAt? r.line with
  | none => s.passRequest t r
  | some w => if (s.win w).state.live then s.windowRequest t r w else s.passRequest t r

/-- The request is accepted into the free record `t`: refused at once when its byte enable set is empty (R8) or it is a
duplicate (R9), classified otherwise. -/
def State.accept (s : State) (t : RecNo) (r : UpRequest) : State :=
  if r.lanes = 0 ∨ s.isDuplicate r = true then s.setRcd t (some ((acceptedRecord r).answered .refused none)) else s.classify t r

/-- No request waits on the upstream channel. -/
def State.clearChannel (s : State) : State := { s with upWaiting := none }

/-- The request standing on the upstream channel meets the port: accepted when ready is asserted, otherwise it stays on the channel
(R2: it "stays on the channel until it is"), in place of one that stood there before (R6: the interconnect "withdraws or changes its
presented request"; log 3). -/
def State.receive (s : State) (r : UpRequest) : State :=
  if s.upReady then
    match s.freeRcd? with
    | some t => s.clearChannel.accept t r
    | none => s
  else { s with upWaiting := some r }

/-- The request that waits on the upstream channel is accepted once ready is asserted (R2, R6); the block does so by itself, when no
command stands before it (log 3). -/
def State.acceptWaiting (s : State) : State :=
  match s.upWaiting with
  | some r => if s.upReady then s.receive r else s
  | none => s

/-- A request is presented on the upstream channel. Another request that waits there is accepted first where ready is asserted (R6: it
is accepted if a record is freed before the presented request changes); a request presented again while it waits is the same one
(log 3). -/
def State.present (s : State) (r : UpRequest) : State :=
  if s.upWaiting = some r then s.receive r else s.acceptWaiting.receive r

/-- UPSTREAM_REQUEST. -/
def execUpstreamRequest (r : UpRequest) (s : State) : Host.Outcome State Fault Refusal := .next (s.present r)

/-! ### UPSTREAM_RESPONSE (R3) -/

/-- The response of record `t`, if one is due and may be sent: not while LINK_RST_N or RESET_N is asserted (R3). -/
def State.dueResponse? (s : State) (t : RecNo) : Option UpResponse :=
  if s.linkAsserted ∨ s.resetAsserted then none
  else
    match s.rcd t with
    | none => none
    | some r => if r.wait = .answer then r.result.map fun res => ⟨r.source, r.tag, res, r.readData⟩ else none

/-- The due response of record `t` is sent and the record freed (R3, R5). -/
def State.respond (s : State) (t : RecNo) : State :=
  match s.dueResponse? t with
  | some p => { s.setRcd t none with upSent := some p }
  | none => s

/-- UPSTREAM_RESPONSE. The command names the record whose response is sent: several due together go in any order (R3; log 7).
Nothing happens where none is due (log 5). -/
def execUpstreamResponse (t : RecNo) (s : State) : Host.Outcome State Fault Refusal := .next (s.respond t)

/-! ### GRANT (R13 to R16, R105 to R108) -/

/-- The downstream request of a forwarded record: a PASS request as it is, a MERGE read as a READ of its whole byte enable set
(R14). -/
def Transit.forwarded (r : Transit) (c : CreditNo) : DownRequest := ⟨r.kind, r.source, c, r.line, r.lanes, r.data⟩

/-- A granted request joins the tail of the issue list, its credit held, and the last grant is the winner (R15, R16). -/
def State.granted (s : State) (c : CreditNo) (cr : Credit) (who : Requester) (q : DownRequest) : State :=
  { s.setCredit c cr with issue := s.issue ++ [q], lastGrant := who }

/-- A grant of credit `c` to the forwarder: the head of its pending list (R13, R14). -/
def State.grantForwarder (s : State) (c : CreditNo) : State :=
  match s.fwd with
  | [] => s
  | t :: rest =>
    match s.rcd t with
    | none => { s with fwd := rest }
    | some r =>
      { (s.modRcd t fun r => { r with wait := .downstream }).granted c (.forwarder (some t)) .forwarder (r.forwarded c) with
        fwd := rest }

/-- The windows in the order the drain engine examines them: from the one after the turn pointer, wrapping (R108). -/
def turnOrder (turn : Option WIdx) : List WIdx :=
  match turn with
  | none => List.finRange 16
  | some p => (List.finRange 16).map fun i => p + 1 + i

/-- The window the drain engine serves: the first one examined that offers an issuable write (R108). -/
def State.turnChoice (s : State) : Option WIdx := (turnOrder s.turn).find? fun w => (s.offers w).isSome

/-- The drain write of entry `e` of group `g` (R105). -/
def entryWrite (g : Group) (e : Entry) (c : CreditNo) : DownRequest :=
  ⟨.write, g.owner, c, e.line, e.valid, restrict e.valid e.data⟩

/-- The marker write of group `g` of window `x` (R105). -/
def markerWrite (x : Window) (m : MarkerConfig) (g : Group) (d : MarkerData) (c : CreditNo) : DownRequest :=
  ⟨.write, g.owner, c, x.markerLine m, markerLanes m.laneGroup, markerLine m.laneGroup d⟩

/-- The group's record after a grant for its entry `e`: the outstanding drain writes advance, and the issued count on a first
issue only (R106). -/
def Group.issuedEntry (g : Group) (e : Entry) : Group :=
  { g with
    outstanding := g.outstanding + 1
    issued := if e.state = .staged then g.issued + 1 else g.issued }

/-- A grant of credit `c` for entry `e` of window `w`'s oldest group `g` (R106). -/
def State.grantEntry (s : State) (c : CreditNo) (w : WIdx) (g : Group) (e : Entry) : State :=
  (({ s with
      turn := some w
      slots := s.slots.map fun (y : Entry) => if y.slot = e.slot then { y with state := .issued } else y }.setOldest w
    (g.issuedEntry e)).granted c (.drain (.entry w g.number e.sequence)) .drain (entryWrite g e c))

/-- A grant of credit `c` for the marker of window `w`'s oldest group `g` (R106). -/
def State.grantMarker (s : State) (c : CreditNo) (w : WIdx) (g : Group) : State :=
  match (s.win w).marker, g.markerData with
  | some m, some d =>
    (({ s with turn := some w }.setOldest w { g with outstanding := 1 }).granted c (.drain (.marker w g.number)) .drain
      (markerWrite (s.win w) m g d c))
  | _, _ => s

/-- A grant of credit `c` to the drain engine: the window by the turn pointer, then its write (R106, R108). -/
def State.grantDrain (s : State) (c : CreditNo) : State :=
  match s.turnChoice with
  | none => s
  | some w =>
    match s.oldest w, s.offers w with
    | some g, some (.entry e) => s.grantEntry c w g e
    | some g, some .marker => s.grantMarker c w g
    | _, _ => s

/-- The winner of a grant among the waiting requesters: alone, or the one the last grant does not name (R15). -/
def State.winner (s : State) : Option Requester :=
  match s.forwarderWaiting, s.drainWaiting with
  | false, false => none
  | true, false => some .forwarder
  | false, true => some .drain
  | true, true =>
    match s.lastGrant with
    | .forwarder => some .drain
    | .drain => some .forwarder

/-- One grant (R15): nothing where no credit is FREE, no requester waits, or RESET_N is asserted. -/
def State.grantOne (s : State) : State :=
  if s.resetAsserted then s
  else
    match s.freeCredit?, s.winner with
    | some c, some .forwarder => s.grantForwarder c
    | some c, some .drain => s.grantDrain c
    | _, _ => s

/-- GRANT. -/
def execGrant (s : State) : Host.Outcome State Fault Refusal := .next s.grantOne

/-! ### DOWNSTREAM_ISSUE (R16) -/

/-- The presented request is issued: it leaves the issue list (R16). -/
def State.issueOne (s : State) : State :=
  match s.presented with
  | some q => { s with issue := s.issue.tail, downSent := some q }
  | none => s

/-- DOWNSTREAM_ISSUE. -/
def execDownstreamIssue (s : State) : Host.Outcome State Fault Refusal := .next s.issueOne

/-! ### DOWNSTREAM_RESPONSE (R14, R17, R109 to R116, R122, R134, R135) -/

/-- The record after its downstream response (R14, R134, R135): a PASS request takes the result, a MERGE read the overlay of
its snapshot on the memory data; REFUSED counts as FAILED (R4). -/
def Transit.downAnswer (r : Transit) (res : Result) (data : LineData) : Transit :=
  match res with
  | .done =>
    match r.path, r.kind with
    | .merge, _ => r.answered .done (some (Snapshot.overlaid (r.snapshot.getD (Vector.replicate 32 none)) r.lanes data))
    | _, .read => r.answered .done (some (restrict r.lanes data))
    | _, .write => r.answered .done none
  | .refused => { r.answered .failed none with snapshot := none }
  | .failed => { r.answered .failed none with snapshot := none }

/-- The drain engine's client is an entry of this window, group and sequence. -/
def Entry.isClient (e : Entry) (w : WIdx) (n : Byte) (q : Nat) : Bool := e.ofGroup w n && e.sequence == q

/-- The entry's slot is freed by its DONE: the slot, the used count of the area, the entry count, the acknowledged count and
the outstanding drain writes (R55, R109 steps 1 and 2). -/
def State.freeAcked (s : State) (w : WIdx) (g : Group) (e : Entry) : State :=
  ({ s with slots := s.slots.filter fun y => y.slot != e.slot }.lowerUsed (s.win w).area 1).setOldest w
    { g with entryCount := g.entryCount - 1, acked := g.acked + 1, outstanding := g.outstanding - 1 }

/-- A DRAINING group whose last entry was acknowledged becomes MARKING if it has marker data and publishes otherwise; a group
with entries left, and a FAULTED one, stay (R110, R116). -/
def State.afterAck (s : State) (w : WIdx) : State :=
  match s.oldest w with
  | none => s
  | some g =>
    if g.state = .draining ∧ g.entryCount = 0 then
      match g.markerData with
      | some _ => s.setOldest w { g with state := .marking }
      | none => s.publish w g
    else s

/-- DONE for an entry write (R109, R116); the freed slot is handed to the hold unit after a publication (R109 step 4). -/
def State.entryDone (s : State) (w : WIdx) (g : Group) (e : Entry) : State :=
  ((s.freeAcked w g e).afterAck w).areaTrigger (s.win w).area

/-- The entry of slot `e` becomes FAILED and the group's outstanding drain writes fall by one (R114 step 1, R116). -/
def State.failEntry (s : State) (w : WIdx) (g : Group) (e : Entry) : State :=
  { s with slots := s.slots.map fun (y : Entry) => if y.slot = e.slot then { y with state := .failed } else y }.setOldest w
    { g with outstanding := g.outstanding - 1 }

/-- A drain failure of window `w`'s oldest group: FAULTED with its failed line, the window frozen (R114, R115); during a soft
reset the group is abandoned at once and the window returns to frozen-from (R126). -/
def State.drainFailure (s : State) (w : WIdx) (line : Line) : State :=
  match s.oldest w with
  | none => s
  | some g =>
    let f : Group := { g with state := .faulted, failedLine := some line }
    let s1 := (s.setOldest w f).freezeWindow w f line
    if s1.softReset then (s1.modWin w Window.unfreeze).abandonFaulted w else s1

/-- FAILED or REFUSED for an entry write: a drain failure of a DRAINING group (R114), no more than a failed entry of a FAULTED
one (R116). -/
def State.entryFailed (s : State) (w : WIdx) (g : Group) (e : Entry) : State :=
  let s1 := s.failEntry w g e
  if g.state = .draining then s1.drainFailure w e.line else s1

/-- What the response for an entry write does to the group `g` and its entry `e` (R109, R114, R116). -/
def State.entryAnswered (s : State) (w : WIdx) (g : Group) (e : Entry) (res : Result) : State :=
  match res with
  | .done => s.entryDone w g e
  | .refused => s.entryFailed w g e
  | .failed => s.entryFailed w g e

/-- The response for the write of the entry of sequence `q` of group `n` of window `w` (R109, R114, R116). The group drained is the
window's oldest (R61). -/
def State.entryResponse (s : State) (w : WIdx) (n : Byte) (q : Nat) (res : Result) : State :=
  match s.oldest w, s.slots.find? (fun e => e.isClient w n q) with
  | some g, some e => if g.number = n then s.entryAnswered w g e res else s
  | _, _ => s

/-- The response for the marker write of the MARKING group `g`: its outstanding drain writes become 0; it publishes (R111), or it
is FAULTED with the marker line as its failed line (R115). -/
def State.markerAnswered (s : State) (w : WIdx) (g : Group) (m : MarkerConfig) (res : Result) : State :=
  let g1 : Group := { g with outstanding := 0 }
  let s1 := s.setOldest w g1
  match res with
  | .done => s1.publish w g1
  | .refused => s1.drainFailure w ((s.win w).markerLine m)
  | .failed => s1.drainFailure w ((s.win w).markerLine m)

/-- The response for the marker write of group `n` of window `w` (R111, R115). The group whose marker was issued is the window's
oldest and MARKING (R106). -/
def State.markerResponse (s : State) (w : WIdx) (n : Byte) (res : Result) : State :=
  match s.oldest w, (s.win w).marker with
  | some g, some m => if g.state = .marking ∧ g.number = n then s.markerAnswered w g m res else s
  | _, _ => s

/-- The response for an orphaned write: absorbed; when it was the window's last, R103 is tested for the window (R122). -/
def State.orphanResponse (s : State) (w : WIdx) : State := if s.hasOrphan w then s else s.drainTake w

/-- The response for a credit HELD by DRAIN, the credit already FREE. -/
def State.drainResponse (s : State) (cl : DrainClient) (res : Result) : State :=
  match cl with
  | .entry w n q => s.entryResponse w n q res
  | .marker w n => s.markerResponse w n res
  | .orphan w => s.orphanResponse w

/-- A downstream response routed by its tag (R17); absorbed while RESET_N is asserted (R19). A soft reset ends in the taking
that leaves every queue empty (R186). -/
def State.downResponse (s : State) (c : CreditNo) (res : Result) (data : LineData) : State :=
  if s.resetAsserted then s
  else
    match s.credit c with
    | .free => s
    | .forwarder none => s.setCredit c .free
    | .forwarder (some t) => (s.setCredit c .free).modRcd t fun r => r.downAnswer res data
    | .drain cl => ((s.setCredit c .free).drainResponse cl res).softResetCheck

/-- DOWNSTREAM_RESPONSE. -/
def execDownstreamResponse (tag : CreditNo) (result : Result) (data : LineData) (s : State) :
    Host.Outcome State Fault Refusal := .next (s.downResponse tag result data)

end Sys2Proof.Machine
end

