-- ==== Sys2Proof/Machine/Resets.lean ====
section
/-! DEFINITION. LINK_RESET, LINK_RESET_RELEASE, POWER_ON_RESET and POWER_ON_RESET_RELEASE (R18, R19 and the reset table of each
chapter). -/

namespace Sys2Proof.Machine

/-! ### Link reset (R18, R86, R156, R167) -/

/-- A credit at a link reset: one HELD by FORWARDER loses its client (R18). -/
def Credit.unclient (c : Credit) : Credit :=
  match c with
  | .free => .free
  | .forwarder _ => .forwarder none
  | .drain cl => .drain cl

/-- The ports and the hold unit at the assertion of LINK_RST_N: every transit record dropped, the forwarder's pending list and
the hold list emptied (R18, R156). -/
def State.dropRequests (s : State) : State :=
  { s.mapCredits Credit.unclient with
    linkAsserted := true
    transit := Vector.replicate 32 none
    fwd := []
    holds := [] }

/-- Window `w`'s groups at a link reset: every pending marker response absent, the OPEN or BROKEN group discarded with cause
LINK_RESET (R86). -/
def State.linkResetWindow (s : State) (w : WIdx) : State :=
  ((s.modWin w fun x => { x with groups := x.groups.map fun g => { g with pendingMarker := none } }).discardYoungestIf w
    .opened .linkReset).discardYoungestIf w .broken .linkReset

/-- The assertion of LINK_RST_N: the drop, one LINK_RESET event, then the discards of the windows (R18, R86, R163). -/
def State.linkReset (s : State) (order : List WIdx) : State :=
  (visitOrder order).foldl State.linkResetWindow (s.dropRequests.offer evLinkReset)

/-- LINK_RESET. While RESET_N is asserted only the line's level is kept, and a line already asserted cannot be asserted again
(log 21). -/
def execLinkReset (order : List WIdx) (s : State) : Host.Outcome State Fault Refusal :=
  .next
    (if s.linkAsserted then s
    else if s.resetAsserted then { s with linkAsserted := true }
    else s.linkReset order)

/-- LINK_RESET_RELEASE: the upstream port may assert ready again (R18). -/
def execLinkResetRelease (s : State) : Host.Outcome State Fault Refusal := .next { s with linkAsserted := false }

/-! ### Power-on reset (R19, R40, R59, R87, R100, R127, R142, R157, R168, R188) -/

/-- Every record at its power-on value, RESET_N asserted. The queue of commands, the level of LINK_RST_N, the level of EPOCH_IN
last sampled and the request the interconnect holds on its channel are not the block's records and stay (log 21). -/
def State.powerOn (s : State) : State :=
  { State.reset with
    pending := s.pending
    resetAsserted := true
    linkAsserted := s.linkAsserted
    epochLevel := s.epochLevel
    upWaiting := s.upWaiting }

/-- POWER_ON_RESET. -/
def execPowerOnReset (s : State) : Host.Outcome State Fault Refusal := .next s.powerOn

/-- POWER_ON_RESET_RELEASE: the level of EPOCH_IN then present becomes the last sampled one, without an epoch event (R88); the
time count starts from 0 (R182); the decoder is in IDLE, whatever MSEL_N's level (R188). Nothing happens where RESET_N is not
asserted (log 21). -/
def execPowerOnResetRelease (epochHigh : Bool) (s : State) : Host.Outcome State Fault Refusal :=
  .next
    (if s.resetAsserted then { s with resetAsserted := false, epochLevel := epochHigh, timeCount := 0, frame := .idle } else s)

end Sys2Proof.Machine
end

