-- ==== Sys2Proof/Machine/Operands.lean ====
section
/-! DEFINITION. The operand and result forms of the management port: bits and bytes (R169), status codes (R174), the command set and its
frames (R175), the codes of the enumerated fields (R176), the record layouts (R177), the reading of WRITE_WINDOW's operands (R178). -/

namespace Sys2Proof.Machine

/-! ### Bytes -/

/-- The low `n` bytes of `v`, least significant first (R169, R177). -/
def leBytes : Nat → Nat → List Byte
  | 0, _ => []
  | n + 1, v => BitVec.ofNat 8 v :: leBytes n (v / 256)

/-- The number that bytes spell, least significant first (R169, R175). -/
def leValue : List Byte → Nat
  | [] => 0
  | b :: bs => b.toNat + 256 * leValue bs

/-- The bits of a byte as they travel, most significant first (R169). -/
def bitsOf (b : Byte) : List Bool := (List.range 8).map fun i => b.getLsbD (7 - i)

/-- The byte that eight bits make, most significant first (R169). -/
def byteOfBits (bits : List Bool) : Byte := BitVec.ofNat 8 (bits.foldl (fun n b => 2 * n + b.toNat) 0)

/-- The byte MDO carries in COMMAND, OPERANDS and TRAILER (R170). -/
def fillByte : Byte := 0xFF#8

/-- The 40-bit byte address of a line (R2). -/
def Line.addr (l : Line) : BitVec 40 := l ++ 0#5

/-- `n` zero bytes. -/
def zeros (n : Nat) : List Byte := List.replicate n 0#8

/-! ### Status (R174) -/

/-- The status codes of R174. -/
inductive Status where
  | ok
  | accepted
  | none_
  | badCommand
  | badIndex
  | badValue
  | overlap
  | state
  | busy
  deriving DecidableEq, Repr

/-- The value of a status byte (R174). -/
def Status.code : Status → Byte
  | .ok => 0x00#8
  | .accepted => 0x01#8
  | .none_ => 0x02#8
  | .badCommand => 0x80#8
  | .badIndex => 0x81#8
  | .badValue => 0x82#8
  | .overlap => 0x83#8
  | .state => 0x84#8
  | .busy => 0x85#8

/-- A result follows the status byte (R174). -/
def Status.hasResult : Status → Bool
  | .ok => true
  | .accepted => true
  | .none_ => true
  | .badCommand => false
  | .badIndex => false
  | .badValue => false
  | .overlap => false
  | .state => false
  | .busy => false

/-! ### Command codes (R175) -/

/-- The sixteen known command codes (R175). -/
def knownCodes : List Byte :=
  [0x01#8, 0x10#8, 0x11#8, 0x12#8, 0x13#8, 0x20#8, 0x21#8, 0x22#8] ++
  [0x23#8, 0x24#8, 0x30#8, 0x31#8, 0x32#8, 0x40#8, 0x41#8, 0x5A#8]

/-- Bytes 0 to 25 of the window record, as WRITE_WINDOW carries them (R175, R177, R178). -/
def opBytes (op : WindowOperands) : List Byte :=
  [op.index] ++ leBytes 5 op.base.toNat ++ leBytes 4 op.size.toNat ++ [op.area, op.trigger] ++ leBytes 4 op.markerOffset.toNat ++
    [op.laneGroup, op.completion, op.policy] ++ leBytes 2 op.holdLimit.toNat ++ leBytes 2 op.ageLimit.toNat ++ [op.ageAction] ++
    leBytes 2 op.enables.toNat

/-- The number in the `n` operand bytes from byte `k` on (R175). -/
def fieldAt (bytes : List Byte) (k n : Nat) : Nat := leValue ((bytes.drop k).take n)

/-- WRITE_WINDOW's fields in its 26 operand bytes (R177, R178). -/
def operandsOfBytes (bytes : List Byte) : WindowOperands where
  index        := BitVec.ofNat 8 (fieldAt bytes 0 1)
  base         := BitVec.ofNat 40 (fieldAt bytes 1 5)
  size         := BitVec.ofNat 32 (fieldAt bytes 6 4)
  area         := BitVec.ofNat 8 (fieldAt bytes 10 1)
  trigger      := BitVec.ofNat 8 (fieldAt bytes 11 1)
  markerOffset := BitVec.ofNat 32 (fieldAt bytes 12 4)
  laneGroup    := BitVec.ofNat 8 (fieldAt bytes 16 1)
  completion   := BitVec.ofNat 8 (fieldAt bytes 17 1)
  policy       := BitVec.ofNat 8 (fieldAt bytes 18 1)
  holdLimit    := BitVec.ofNat 16 (fieldAt bytes 19 2)
  ageLimit     := BitVec.ofNat 16 (fieldAt bytes 21 2)
  ageAction    := BitVec.ofNat 8 (fieldAt bytes 23 1)
  enables      := BitVec.ofNat 16 (fieldAt bytes 24 2)

/-- The frame of a command on MDI: its code, then its operand bytes in the order of R175; no bytes for what is no command of the
port. -/
def frameOf : Instr → List Byte
  | .badCommand code => [code]
  | .identify => [0x01#8]
  | .readWindows first count => [0x10#8, first, count]
  | .writeWindow op => 0x11#8 :: opBytes op
  | .setOnline w => [0x12#8, w]
  | .setOfflineFinish w mode => [0x13#8, w, mode]
  | .setOfflineDrop w mode => [0x13#8, w, mode]
  | .seal w => [0x20#8, w]
  | .release w => [0x21#8, w]
  | .discard w => [0x22#8, w]
  | .clearFaultRetry w action => [0x23#8, w, action]
  | .clearFaultAbandon w action => [0x23#8, w, action]
  | .readGroups w => [0x24#8, w]
  | .readAreas first count => [0x30#8, first, count]
  | .writeArea a first count => [0x31#8, a] ++ leBytes 2 first.toNat ++ leBytes 2 count.toNat
  | .readSlots first count => [0x32#8] ++ leBytes 2 first.toNat ++ [count]
  | .popEvents n => [0x40#8, n]
  | .readStats w zero => [0x41#8, w, zero]
  | .softReset _ _ => [0x5A#8]
  | .upstreamRequest _ => []
  | .upstreamResponse _ => []
  | .grant => []
  | .downstreamIssue => []
  | .downstreamResponse _ _ _ => []
  | .reevaluationPass => []
  | .epochEvent _ => []
  | .ageExpiry _ => []
  | .holdExpiry _ => []
  | .linkReset _ => []
  | .linkResetRelease => []
  | .powerOnReset => []
  | .powerOnResetRelease _ => []
  | .transactionEndsEarly _ => []
  | .usTick => []
  | .transactionStart => []

/-- The command without operands of a known code (R175); the orders of a SOFT_RESET are no part of its frame (log 8). -/
def command0? (code : Byte) : Option Instr :=
  if code = 0x01#8 then some .identify else if code = 0x5A#8 then some (.softReset [] []) else none

/-- The command with one operand byte of a known code (R175). -/
def command1? (code a : Byte) : Option Instr :=
  if code = 0x12#8 then some (.setOnline a)
  else if code = 0x20#8 then some (.seal a)
  else if code = 0x21#8 then some (.release a)
  else if code = 0x22#8 then some (.discard a)
  else if code = 0x24#8 then some (.readGroups a)
  else if code = 0x40#8 then some (.popEvents a)
  else none

/-- The command with two operand bytes of a known code (R175): a mode or action byte names the row, and an unlisted one goes with the
first (log 15). -/
def command2? (code a b : Byte) : Option Instr :=
  if code = 0x10#8 then some (.readWindows a b)
  else if code = 0x13#8 then some (if b = 1#8 then .setOfflineDrop a b else .setOfflineFinish a b)
  else if code = 0x23#8 then some (if b = 1#8 then .clearFaultAbandon a b else .clearFaultRetry a b)
  else if code = 0x30#8 then some (.readAreas a b)
  else if code = 0x41#8 then some (.readStats a b)
  else none

/-- The command that a known code and these operand bytes make; none while operand bytes are missing (R170, R175). -/
def knownCommand? (code : Byte) (ops : List Byte) : Option Instr :=
  match ops with
  | [] => command0? code
  | [a] => command1? code a
  | [a, b] => command2? code a b
  | [a, b, c] => if code = 0x32#8 then some (.readSlots (BitVec.ofNat 16 (leValue [a, b])) c) else none
  | [a, b, c, d, e] =>
    if code = 0x31#8 then some (.writeArea a (BitVec.ofNat 16 (leValue [b, c])) (BitVec.ofNat 16 (leValue [d, e]))) else none
  | _ => if code = 0x11#8 ∧ ops.length = 26 then some (.writeWindow (operandsOfBytes ops)) else none

/-- The command whose frame the bytes received so far complete, if they complete one; a code that is not known is complete with its
command byte (R170, R173, R175). -/
def commandOf (bytes : List Byte) : Option Instr :=
  match bytes with
  | [] => none
  | code :: ops => if knownCodes.contains code then knownCommand? code ops else some (.badCommand code)

/-! ### Enumerated fields (R176) -/

/-- Window state (R176). -/
def WState.code : WState → Byte
  | .unused => 0
  | .offline => 1
  | .online => 2
  | .quiescing => 3
  | .frozen => 4

/-- Trigger mode (R176). -/
def Trigger.code : Trigger → Byte
  | .marker => 0
  | .markerEpoch => 1
  | .epoch => 2

/-- The trigger mode a byte names (R176). -/
def Trigger.ofCode? (b : Byte) : Option Trigger :=
  if b = 0 then some .marker else if b = 1 then some .markerEpoch else if b = 2 then some .epoch else none

/-- Marker completion (R176). -/
def Completion.code : Completion → Byte
  | .early => 0
  | .late => 1

/-- The marker completion a byte names (R176). -/
def Completion.ofCode? (b : Byte) : Option Completion :=
  if b = 0 then some .early else if b = 1 then some .late else none

/-- Conflict policy (R176). -/
def Policy.code : Policy → Byte
  | .refuse => 0
  | .hold => 1

/-- The conflict policy a byte names (R176). -/
def Policy.ofCode? (b : Byte) : Option Policy := if b = 0 then some .refuse else if b = 1 then some .hold else none

/-- Age action (R176). -/
def AgeAction.code : AgeAction → Byte
  | .seal => 0
  | .break_ => 1

/-- The age action a byte names (R176). -/
def AgeAction.ofCode? (b : Byte) : Option AgeAction := if b = 0 then some .seal else if b = 1 then some .break_ else none

/-- Frozen-from (R176). -/
def FrozenFrom.code : FrozenFrom → Byte
  | .online => 0
  | .quiescing => 1

/-- Quiesce mode (R176). -/
def QuiesceMode.code : QuiesceMode → Byte
  | .finish => 0
  | .drop => 1

/-- Group state (R176). -/
def GState.code : GState → Byte
  | .opened => 0
  | .broken => 1
  | .sealed => 2
  | .released => 3
  | .draining => 4
  | .marking => 5
  | .faulted => 6

/-- Seal cause (R176). -/
def SealCause.code : SealCause → Byte
  | .marker => 0
  | .manual => 1
  | .epoch => 2
  | .age => 3

/-- Entry state (R176). -/
def EState.code : EState → Byte
  | .staged => 0
  | .issued => 1
  | .failed => 2

/-- Cause (R176). -/
def Cause.code : Cause → Byte
  | .manual => 0
  | .quiesce => 1
  | .linkReset => 2
  | .brokenEnd => 3
  | .epochBroken => 4
  | .abandon => 5
  | .areaFull => 6
  | .holdFull => 7
  | .areaWaitExpired => 8
  | .age => 9
  | .freeze => 10
  | .conflict => 11
  | .queueFull => 12
  | .markerMix => 13
  | .windowState => 14
  | .broken => 15

/-! ### Record layouts (R177) -/

/-- A presence bit: `2 ^ k` when the field is there. -/
def presence {α : Type} (k : Nat) (o : Option α) : Nat := if o.isSome then 2 ^ k else 0

/-- An optional field of the group and event records: `n` bytes, zero when absent (R176). -/
def optBytes {α : Type} (n : Nat) (f : α → Nat) (o : Option α) : List Byte :=
  match o with
  | some x => leBytes n (f x)
  | none => zeros n

/-- The marker fields of a window record, bytes 12 to 17, all FFh when absent (R177). -/
def MarkerConfig.bytes (o : Option MarkerConfig) : List Byte :=
  match o with
  | some m => leBytes 4 m.offset.toNat ++ [BitVec.ofNat 8 m.laneGroup.val, m.completion.code]
  | none => List.replicate 6 0xFF#8

/-- The window record on the port, 32 bytes (R177). -/
def Window.bytes (w : WIdx) (x : Window) : List Byte :=
  [BitVec.ofNat 8 w.val] ++ leBytes 5 (Line.addr x.base).toNat ++ leBytes 4 x.size.toNat ++
    [BitVec.ofNat 8 x.area.val, x.trigger.code] ++ MarkerConfig.bytes x.marker ++ [x.policy.code] ++
    leBytes 2 x.holdLimit.toNat ++ leBytes 2 x.ageLimit.toNat ++ [x.ageAction.code] ++ leBytes 2 x.enables.toNat ++
    [x.state.code, x.nextGroup, (x.frozenFrom.map FrozenFrom.code).getD 0xFF#8,
      (x.quiesceMode.map QuiesceMode.code).getD 0xFF#8, 0#8, 0#8]

/-- The area record on the port, 7 bytes (R177). -/
def Area.bytes (a : AIdx) (x : Area) : List Byte :=
  [BitVec.ofNat 8 a.val] ++ leBytes 2 x.first ++ leBytes 2 x.count ++ leBytes 2 x.used

/-- The presence byte of a group record (R177). -/
def Group.presence (g : Group) : Nat :=
  Machine.presence 0 g.sealCause + Machine.presence 1 g.releaseEpoch + Machine.presence 2 g.ageDeadline +
    Machine.presence 3 g.failedLine + Machine.presence 4 g.pendingMarker + Machine.presence 5 g.markerData

/-- The group record on the port, 25 bytes (R177); the marker data is not shown (R63). -/
def Group.bytes (g : Group) : List Byte :=
  [g.number, BitVec.ofNat 8 g.owner.val, g.state.code, BitVec.ofNat 8 g.presence] ++ leBytes 2 g.entryCount ++
    optBytes 1 (fun c => c.code.toNat) g.sealCause ++ optBytes 2 BitVec.toNat g.releaseEpoch ++
    optBytes 4 BitVec.toNat g.ageDeadline ++ leBytes 2 g.issued ++ leBytes 2 g.acked ++ leBytes 1 g.outstanding ++
    optBytes 5 (fun l => (Line.addr l).toNat) g.failedLine ++ optBytes 1 (fun p => p.1.val) g.pendingMarker ++
    optBytes 1 (fun p => p.2.toNat) g.pendingMarker

/-- The summary of slot `k` on the port, 17 bytes; a FREE slot has zero in every entry field (R58, R177). -/
def slotBytes (k : Nat) (o : Option Entry) : List Byte :=
  match o with
  | some e =>
    leBytes 2 k ++ [1#8, BitVec.ofNat 8 e.window.val, e.group] ++ leBytes 5 (Line.addr e.line).toNat ++
      leBytes 2 e.sequence ++ [e.state.code] ++ leBytes 4 e.valid.toNat
  | none => leBytes 2 k ++ zeros 15

/-- The presence byte of an event record (R177). -/
def EventBody.presence (e : EventBody) : Nat :=
  Machine.presence 0 e.window + Machine.presence 1 e.group + Machine.presence 2 e.source + Machine.presence 3 e.cause +
    Machine.presence 4 e.line

/-- The event record on the port, 13 bytes (R177). -/
def Event.bytes (e : Event) : List Byte :=
  [e.seq, BitVec.ofNat 8 e.body.kind.code, BitVec.ofNat 8 e.body.presence] ++ optBytes 1 (fun w => w.val) e.body.window ++
    optBytes 1 BitVec.toNat e.body.group ++ optBytes 1 (fun x => x.val) e.body.source ++
    optBytes 1 (fun c => c.code.toNat) e.body.cause ++ optBytes 5 (fun l => (Line.addr l).toNat) e.body.line ++ [e.lost]

/-- The READ_STATS result, 16 bytes (R177). -/
def Stats.bytes (x : Stats) : List Byte :=
  leBytes 4 x.published.toNat ++ leBytes 4 x.discarded.toNat ++ leBytes 4 x.broken.toNat ++ leBytes 4 x.refused.toNat

/-! ### WRITE_WINDOW's operands (R22, R24, R178) -/

/-- The configuration fields a command would write (R20). -/
structure WindowFields where
  base      : Line
  size      : BitVec 32
  area      : AIdx
  trigger   : Trigger
  marker    : Option MarkerConfig
  policy    : Policy
  holdLimit : BitVec 16
  ageLimit  : BitVec 16
  ageAction : AgeAction
  enables   : BitVec 8
  deriving DecidableEq, Repr

/-- The line the 40 bits of a base name; the low five bits are checked apart (R22). -/
def opLine (op : WindowOperands) : Line := op.base.extractLsb' 5 35

/-- The area an operand byte names: 0-7 (R22). -/
def opArea? (op : WindowOperands) : Option AIdx := if h : op.area.toNat < 8 then some ⟨op.area.toNat, h⟩ else none

/-- The marker lane group an operand byte names: 0-3 (R22). -/
def opLaneGroup? (op : WindowOperands) : Option (Fin 4) :=
  if h : op.laneGroup.toNat < 4 then some ⟨op.laneGroup.toNat, h⟩ else none

/-- The marker fields of the command, under the trigger mode it names: ignored and absent in EPOCH mode; `none` when R22
refuses one of them (R22, R178). -/
def opMarker? (op : WindowOperands) (t : Trigger) : Option (Option MarkerConfig) :=
  match t with
  | .epoch => some none
  | .marker => (opMarkerFields op).map some
  | .markerEpoch => (opMarkerFields op).map some
where
  /-- The three marker fields as R22 checks them. -/
  opMarkerFields (op : WindowOperands) : Option MarkerConfig :=
    match opLaneGroup? op, Completion.ofCode? op.completion with
    | some g, some c => if op.markerOffset.toNat < op.size.toNat then some ⟨op.markerOffset, g, c⟩ else none
    | _, _ => none

/-- The event enables an operand names: only window-scoped kinds, bits 0 to 7 (R22, R24, R178). -/
def opEnables? (op : WindowOperands) : Option (BitVec 8) :=
  if op.enables.toNat < 256 then some (op.enables.setWidth 8) else none

/-- The range of the command fits: low five bits of the base zero, size at most 33,554,432, no byte past 2^40 (R22). -/
def opRangeOk (op : WindowOperands) : Bool :=
  op.base.toNat % 32 == 0 && op.size.toNat ≤ Config.maxWindowLines && op.base.toNat + 32 * op.size.toNat ≤ 2 ^ 40

/-- The fields of a WRITE_WINDOW with size 1 or more, as R22 checks them; `none` is BAD_VALUE. -/
def opFields? (op : WindowOperands) : Option WindowFields :=
  match Trigger.ofCode? op.trigger, opArea? op, Policy.ofCode? op.policy, AgeAction.ofCode? op.ageAction, opEnables? op with
  | some t, some a, some p, some act, some en =>
    match opMarker? op t with
    | some m =>
      if opRangeOk op = true ∧ op.holdLimit ≠ 0 then
        some ⟨opLine op, op.size, a, t, m, p, op.holdLimit, op.ageLimit, act, en⟩
      else none
    | none => none
  | _, _, _, _, _ => none

/-- The marker bytes of a command equal the record's (R24); not compared where the record's trigger mode is EPOCH. -/
def sameMarker (x : Window) (op : WindowOperands) : Bool :=
  match x.trigger with
  | .epoch => true
  | .marker => sameMarkerFields x op
  | .markerEpoch => sameMarkerFields x op
where
  /-- The comparison of the three marker fields. -/
  sameMarkerFields (x : Window) (op : WindowOperands) : Bool :=
    match x.marker with
    | some m =>
      op.markerOffset == m.offset && op.laneGroup.toNat == m.laneGroup.val && op.completion == m.completion.code
    | none => false

/-- No compared configuration field of the command, event enables apart, differs from the record (R24). -/
def sameConfig (x : Window) (op : WindowOperands) : Bool :=
  op.base == Line.addr x.base && op.size == x.size && op.area.toNat == x.area.val && op.trigger == x.trigger.code &&
    sameMarker x op && op.policy == x.policy.code && op.holdLimit == x.holdLimit && op.ageLimit == x.ageLimit &&
    op.ageAction == x.ageAction.code

end Sys2Proof.Machine
end

