-- ==== Sys2Proof/Machine/Port.lean ====
section
/-! DEFINITION. The management port: what the frame decoder has received (R169, R170), the taking of a command with the port's checks
(R171, R173), the status and result (R174), and BAD_COMMAND. Serial.lean runs the decoder bit by bit. -/

namespace Sys2Proof.Machine

/-! ### The frame decoder's reception (R169, R170) -/

/-- The decoder is receiving a frame: in COMMAND or OPERANDS (R170). -/
def Frame.receiving : Frame → Bool
  | .idle => false
  | .command => true
  | .operands => true
  | .result => false
  | .trailer => false

/-- The bits of the frame under way received so far (R169). -/
def State.receivedBits (s : State) : List Bool := s.received.flatMap bitsOf ++ s.shift

/-- The frame `bytes` can be completed now: RESET_N released, the decoder in COMMAND or OPERANDS, and what it has received is how
that frame begins (R170, R188). -/
def State.canReceive (s : State) (bytes : List Byte) : Bool :=
  !s.resetAsserted && s.frame.receiving && s.receivedBits.isPrefixOf (bytes.flatMap bitsOf)

/-! ### The taking of a command (R171, R173, R174) -/

/-- What the owning block answers: the status, the result bytes after it, and the state it leaves. -/
structure Answer where
  status : Status
  result : List Byte
  state  : State

/-- An answer with no result bytes. -/
def answer (st : Status) (s : State) : Answer := ⟨st, [], s⟩

/-- The status and result are placed in the result buffer and the decoder, its frame received, moves to RESULT (R170, R171,
R174). -/
def Answer.placed (a : Answer) : State :=
  { a.state with
    frame := .result
    shift := []
    received := []
    masterRead := []
    buffer := a.status.code :: (if a.status.hasResult then a.result else []) }

/-- The taking of command `c` (R171), at the last bit of its frame: nothing where that frame cannot be the one under way (log 12);
then the soft reset check, the port's index and count checks `check` in their order, and the owning block's act (R173). `gated` says
that the command gives BUSY while a soft reset is in progress. -/
def State.take (s : State) (c : Instr) (gated : Bool) (check : Option Status) (act : State → Answer) :
    Host.Outcome State Fault Refusal :=
  .next
    (if s.canReceive (frameOf c) then
      if gated = true ∧ s.softReset = true then (answer .busy s).placed
      else
        match check with
        | some st => (answer st s).placed
        | none => (act s).placed
    else s)

/-- The window index of an operand byte: 0-15 (R173). -/
def windowOf (b : Byte) : WIdx := ⟨b.toNat % 16, Nat.mod_lt _ (by decide)⟩

/-- The area index of an operand byte: 0-7 (R173). -/
def areaOf (b : Byte) : AIdx := ⟨b.toNat % 8, Nat.mod_lt _ (by decide)⟩

/-- Check 3 of R173 for a window index. -/
def windowCheck (b : Byte) : Option Status := if b.toNat < 16 then none else some .badIndex

/-- Check 3 of R173 for an area index. -/
def areaCheck (b : Byte) : Option Status := if b.toNat < 8 then none else some .badIndex

/-- Checks 3 and 4 of R173: an index below `limit`, a count from 1 to `most`. -/
def rangeCheck (first limit count most : Nat) : Option Status :=
  if limit ≤ first then some .badIndex else if 1 ≤ count ∧ count ≤ most then none else some .badValue

/-- BAD_COMMAND: an unknown code is taken at its command byte (R173 check 1, before the soft reset check). A frame with a known
code is not this command (WellFormed), and nothing is taken. -/
def execBadCommand (code : Byte) (s : State) : Host.Outcome State Fault Refusal :=
  if knownCodes.contains code then .next s else s.take (.badCommand code) false none fun s => answer .badCommand s

end Sys2Proof.Machine
end

