-- ==== Sys2Proof/Machine/Reads.lean ====
section
/-! DEFINITION. The management commands that read: IDENTIFY, READ_WINDOWS, READ_GROUPS, READ_AREAS, READ_SLOTS, READ_STATS and
POP_EVENTS (R39, R58, R63, R164, R179 to R183). None of them is refused during a soft reset (R173). -/

namespace Sys2Proof.Machine

/-- The IDENTIFY result, 17 bytes (R177). -/
def State.identity (s : State) : List Byte :=
  leBytes 2 Config.partCode ++ leBytes 1 Config.revision ++ [16#8, 8#8] ++ leBytes 2 Config.stagingSlots ++
    leBytes 1 Config.holdSlots ++ leBytes 1 Config.eventRecords ++ leBytes 1 Config.transitRecords ++
    leBytes 2 s.epochCounter.toNat ++ leBytes 4 s.timeCount.toNat ++ [if s.softReset then 1#8 else 0#8]

/-- IDENTIFY (R182). -/
def execIdentify (s : State) : Host.Outcome State Fault Refusal := s.take .identify false none fun s => ⟨.ok, s.identity, s⟩

/-- The result of a read of consecutive records (R179): the number n of records that follow, the records from `first` in
ascending index order, zero bytes in the places beyond the n-th; `width` is one record's length. -/
def tableResult (size width first count : Nat) (rec : Nat → List Byte) : List Byte :=
  let n := min count (size - first)
  leBytes 1 n ++ ((List.range' first n).map rec).flatten ++ zeros (width * (count - n))

/-- The record of window `k` on the port. -/
def State.windowBytes (s : State) (k : Nat) : List Byte := (s.win ⟨k % 16, Nat.mod_lt _ (by decide)⟩).bytes ⟨k % 16, Nat.mod_lt _ (by decide)⟩

/-- The record of area `k` on the port. -/
def State.areaBytes (s : State) (k : Nat) : List Byte := (s.area ⟨k % 8, Nat.mod_lt _ (by decide)⟩).bytes ⟨k % 8, Nat.mod_lt _ (by decide)⟩

/-- The summary of slot `k` on the port. -/
def State.slotSummary (s : State) (k : Nat) : List Byte := slotBytes k (s.slots.find? fun e => e.slot == k)

/-- READ_WINDOWS (R179). -/
def execReadWindows (first count : Byte) (s : State) : Host.Outcome State Fault Refusal :=
  s.take (.readWindows first count) false (rangeCheck first.toNat 16 count.toNat 16) fun s =>
    ⟨.ok, tableResult 16 32 first.toNat count.toNat s.windowBytes, s⟩

/-- READ_AREAS (R42, R179). -/
def execReadAreas (first count : Byte) (s : State) : Host.Outcome State Fault Refusal :=
  s.take (.readAreas first count) false (rangeCheck first.toNat 8 count.toNat 8) fun s =>
    ⟨.ok, tableResult 8 7 first.toNat count.toNat s.areaBytes, s⟩

/-- READ_SLOTS (R58, R179). -/
def execReadSlots (first : BitVec 16) (count : Byte) (s : State) : Host.Outcome State Fault Refusal :=
  s.take (.readSlots first count) false (rangeCheck first.toNat 512 count.toNat 16) fun s =>
    ⟨.ok, tableResult 512 17 first.toNat count.toNat s.slotSummary, s⟩

/-- The READ_GROUPS result, 101 bytes: the count, the records oldest first, zero bytes for the free ones (R180). -/
def groupsResult (gs : List Group) : List Byte :=
  leBytes 1 gs.length ++ (gs.map Group.bytes).flatten ++ zeros (25 * (4 - gs.length))

/-- READ_GROUPS (R63, R180). -/
def execReadGroups (w : Byte) (s : State) : Host.Outcome State Fault Refusal :=
  s.take (.readGroups w) false (windowCheck w) fun s => ⟨.ok, groupsResult (s.win (windowOf w)).groups, s⟩

/-- The counts of window `w` are read and, with zero-after-read 1, set to 0 after it (R39, R181). -/
def State.readStats (s : State) (w : WIdx) (zero : Byte) : Answer :=
  ⟨.ok, (s.win w).stats.bytes, if zero = 1 then s.modWin w (fun x => { x with stats := Stats.zero }) else s⟩

/-- READ_STATS: index, then the zero-after-read operand, 0 or 1 (R173 checks 3 and 4). -/
def execReadStats (w zero : Byte) (s : State) : Host.Outcome State Fault Refusal :=
  s.take (.readStats w zero) false
    (if w.toNat < 16 then if zero.toNat ≤ 1 then none else some .badValue else some .badIndex) fun s =>
      s.readStats (windowOf w) zero

/-- The POP_EVENTS result: the count k, the k records, zero bytes in the places k + 1 to n (R183). -/
def popResult (n : Nat) (es : List Event) : List Byte :=
  leBytes 1 es.length ++ (es.map Event.bytes).flatten ++ zeros (13 * (n - es.length))

/-- POP_EVENTS at the event unit (R164): BAD_VALUE for n outside 1-8, otherwise the first k records removed, k the smaller of n
and their number; NONE when the queue is empty. -/
def State.popEvents (s : State) (n : Nat) : Answer :=
  if 1 ≤ n ∧ n ≤ 8 then
    ⟨if s.events.isEmpty then .none_ else .ok, popResult n (s.events.take n), { s with events := s.events.drop n }⟩
  else answer .badValue s

/-- POP_EVENTS. -/
def execPopEvents (n : Byte) (s : State) : Host.Outcome State Fault Refusal :=
  s.take (.popEvents n) false none fun s => s.popEvents n.toNat

end Sys2Proof.Machine
end

