-- ==== Sys2Proof/Machine/Windows.lean ====
section
/-! DEFINITION. The management commands that change windows, areas and groups: WRITE_WINDOW, WRITE_AREA, SET_ONLINE, SET_OFFLINE,
SEAL, RELEASE, DISCARD, CLEAR_FAULT and SOFT_RESET. -/

namespace Sys2Proof.Machine

/-! ### WRITE_WINDOW (R21 to R24) -/

/-- The window made UNUSED: configuration, frozen-from and quiesce mode at their zero values, the next group number and the
statistics kept (R20, R21). A window in UNUSED or OFFLINE holds no group (R27). -/
def Window.cleared (x : Window) : Window :=
  { Window.zero with nextGroup := x.nextGroup, stats := x.stats, groups := x.groups }

/-- The window configured: the fields of the command, state OFFLINE (R21). -/
def Window.configured (x : Window) (f : WindowFields) : Window :=
  { x with
    state := .offline, base := f.base, size := f.size, area := f.area, trigger := f.trigger, marker := f.marker,
    policy := f.policy, holdLimit := f.holdLimit, ageLimit := f.ageLimit, ageAction := f.ageAction, enables := f.enables }

/-- Two ranges of lines share a line: each begins at or before the other's last line (R23). -/
def rangesShare (b1 n1 b2 n2 : Nat) : Bool := b1 < b2 + n2 && b2 < b1 + n1

/-- The range of the command shares a line with another window that is not UNUSED (R23). -/
def State.overlaps (s : State) (w : WIdx) (f : WindowFields) : Bool :=
  (List.finRange 16).any fun v =>
    v != w && (s.win v).state != .unused &&
      rangesShare f.base.toNat f.size.toNat (s.win v).base.toNat (s.win v).size.toNat

/-- WRITE_WINDOW for a window in UNUSED or OFFLINE (R21 to R23). -/
def State.configureWindow (s : State) (w : WIdx) (op : WindowOperands) : Answer :=
  if op.size = 0 then answer .ok (s.modWin w Window.cleared)
  else
    match opFields? op with
    | none => answer .badValue s
    | some f => if s.overlaps w f then answer .overlap s else answer .ok (s.modWin w fun x => x.configured f)

/-- WRITE_WINDOW for a live window: only the event enables may change (R24). -/
def State.writeEnables (s : State) (w : WIdx) (op : WindowOperands) : Answer :=
  if sameConfig (s.win w) op then
    match opEnables? op with
    | none => answer .badValue s
    | some en => answer .ok (s.modWin w fun x => { x with enables := en })
  else answer .state s

/-- WRITE_WINDOW at the window controller. -/
def State.writeWindow (s : State) (w : WIdx) (op : WindowOperands) : Answer :=
  if (s.win w).state.live then s.writeEnables w op else s.configureWindow w op

/-- WRITE_WINDOW. -/
def execWriteWindow (op : WindowOperands) (s : State) : Host.Outcome State Fault Refusal :=
  s.take (.writeWindow op) true (windowCheck op.index) fun s => s.writeWindow (windowOf op.index) op

/-! ### WRITE_AREA (R44, R45) -/

/-- Some window joined to area `a` is ONLINE, QUIESCING or FROZEN (R44). -/
def State.areaInUse (s : State) (a : AIdx) : Bool :=
  (List.finRange 16).any fun w => (s.win w).joined a && (s.win w).state.live

/-- An extent of `count` slots from `first` shares a slot with another area of slot count 1 or more; an extent of 0 slots is
not compared (R45). -/
def State.areaOverlaps (s : State) (a : AIdx) (first count : Nat) : Bool :=
  (List.finRange 8).any fun b =>
    b != a && count != 0 && (s.area b).count != 0 && rangesShare first count (s.area b).first (s.area b).count

/-- WRITE_AREA at the staging table: values, then window states, then overlap (R44, R45). -/
def State.writeArea (s : State) (a : AIdx) (first count : Nat) : Answer :=
  if first < 512 ∧ count ≤ 512 ∧ first + count ≤ 512 then
    if s.areaInUse a then answer .state s
    else if s.areaOverlaps a first count then answer .overlap s
    else answer .ok (s.setArea a { s.area a with first := first, count := count })
  else answer .badValue s

/-- WRITE_AREA. -/
def execWriteArea (a : Byte) (first count : BitVec 16) (s : State) : Host.Outcome State Fault Refusal :=
  s.take (.writeArea a first count) true (areaCheck a) fun s => s.writeArea (areaOf a) first.toNat count.toNat

/-! ### SET_ONLINE (R28) -/

/-- SET_ONLINE at the window controller: an OFFLINE window whose area has slot count 1 or more becomes ONLINE. -/
def State.setOnline (s : State) (w : WIdx) : Answer :=
  if (s.win w).state = .offline ∧ 1 ≤ (s.area (s.win w).area).count then
    answer .ok (s.modWin w fun x => { x with state := .online })
  else answer .state s

/-- SET_ONLINE. -/
def execSetOnline (w : Byte) (s : State) : Host.Outcome State Fault Refusal :=
  s.take (.setOnline w) true (windowCheck w) fun s => s.setOnline (windowOf w)

/-! ### SET_OFFLINE (R29 to R33) -/

/-- SET_OFFLINE by the window's state (R29), with the quiesce `quiesce` for an ONLINE window; an operand other than the listed
mode gives BAD_VALUE whatever the state. -/
def State.setOffline (s : State) (w : WIdx) (listed : Bool) (quiesce : State → State) : Answer :=
  if listed then
    match (s.win w).state with
    | .online => answer .accepted (quiesce s)
    | .quiescing => answer .state s
    | .frozen => answer .state s
    | .offline => answer .none_ s
    | .unused => answer .none_ s
  else answer .badValue s

/-- SET_OFFLINE with FINISH (R31). -/
def execSetOfflineFinish (w mode : Byte) (s : State) : Host.Outcome State Fault Refusal :=
  s.take (.setOfflineFinish w mode) true (windowCheck w) fun s =>
    s.setOffline (windowOf w) (mode == QuiesceMode.finish.code) fun s => s.quiesceFinish (windowOf w)

/-- SET_OFFLINE with DROP (R32). -/
def execSetOfflineDrop (w mode : Byte) (s : State) : Host.Outcome State Fault Refusal :=
  s.take (.setOfflineDrop w mode) true (windowCheck w) fun s =>
    s.setOffline (windowOf w) (mode == QuiesceMode.drop.code) fun s => s.quiesceDrop (windowOf w)

/-! ### SEAL (R77), RELEASE (R96), DISCARD (R84) -/

/-- The youngest record of window `w` is OPEN. -/
def State.hasOpen (s : State) (w : WIdx) : Bool :=
  match s.youngest w with
  | some g => g.state == .opened
  | none => false

/-- SEAL at the window controller (R77). -/
def State.sealCommand (s : State) (w : WIdx) : Answer :=
  if (s.win w).state = .online ∧ s.hasOpen w = true then
    answer .ok ((s.sealOpen w .manual none none).afterSeal w)
  else answer .none_ s

/-- SEAL. -/
def execSeal (w : Byte) (s : State) : Host.Outcome State Fault Refusal :=
  s.take (.seal w) true (windowCheck w) fun s => s.sealCommand (windowOf w)

/-- The window states in which RELEASE and DISCARD act (R84, R96). -/
def WState.onlineOrFrozen : WState → Bool
  | .online => true
  | .frozen => true
  | .quiescing => false
  | .offline => false
  | .unused => false

/-- RELEASE at the window controller: the release epoch stays absent (R96). -/
def State.releaseCommand (s : State) (w : WIdx) : Answer :=
  if (s.win w).state.onlineOrFrozen = true ∧ s.holdsSealed w = true then answer .ok (s.releaseAll w none)
  else answer .none_ s

/-- RELEASE. -/
def execRelease (w : Byte) (s : State) : Host.Outcome State Fault Refusal :=
  s.take (.release w) true (windowCheck w) fun s => s.releaseCommand (windowOf w)

/-- Window `w` holds an OPEN, BROKEN or SEALED group. -/
def State.holdsUnreleased (s : State) (w : WIdx) : Bool := (s.win w).groups.any fun g => g.state.unreleased

/-- DISCARD at the window controller (R84). -/
def State.discardCommand (s : State) (w : WIdx) : Answer :=
  if (s.win w).state.onlineOrFrozen = true ∧ s.holdsUnreleased w = true then answer .ok (s.discardUnreleased w .manual)
  else answer .none_ s

/-- DISCARD. -/
def execDiscard (w : Byte) (s : State) : Host.Outcome State Fault Refusal :=
  s.take (.discard w) true (windowCheck w) fun s => s.discardCommand (windowOf w)

/-! ### CLEAR_FAULT (R37, R119, R121) -/

/-- CLEAR_FAULT at the window controller: a FROZEN window returns to frozen-from, then `act` treats its faulted group (R37). -/
def State.clearFault (s : State) (w : WIdx) (listed : Bool) (act : State → State) : Answer :=
  if listed then
    if (s.win w).state = .frozen then answer .ok (act (s.modWin w Window.unfreeze)) else answer .state s
  else answer .badValue s

/-- RETRY's act on the faulted group: DRAINING again, or MARKING where it holds no entry, its failed line absent (R119). The
drain engine then tests R103 as at any return from FROZEN. -/
def State.retryFaulted (s : State) (w : WIdx) : State :=
  match s.oldest w with
  | some g =>
    if g.state = .faulted then
      s.setOldest w { g with state := if g.entryCount = 0 then .marking else .draining, failedLine := none }
    else s
  | none => s

/-- CLEAR_FAULT with RETRY. -/
def execClearFaultRetry (w action : Byte) (s : State) : Host.Outcome State Fault Refusal :=
  s.take (.clearFaultRetry w action) true (windowCheck w) fun s =>
    s.clearFault (windowOf w) (action == 0#8) fun s => (s.retryFaulted (windowOf w)).drainTake (windowOf w)

/-- CLEAR_FAULT with ABANDON. -/
def execClearFaultAbandon (w action : Byte) (s : State) : Host.Outcome State Fault Refusal :=
  s.take (.clearFaultAbandon w action) true (windowCheck w) fun s =>
    s.clearFault (windowOf w) (action == 1#8) fun s => s.abandonFaulted (windowOf w)

/-! ### SOFT_RESET (R184, R40, R126) -/

/-- Step 1 of R184 at window `w`: the faulted group of a FROZEN window is abandoned and the window returns to frozen-from. The drain
engine tests R103 right after the abandonment, so it takes (and, if it is empty, publishes) the window's next RELEASED group before
step 2, and its GROUP_PUBLISHED comes before step 2's records; R40, R121 and R184 leave this order open: DESIGN CHOICE, unsafe
(log 28). -/
def State.softAbandon (s : State) (w : WIdx) : State :=
  if (s.win w).state = .frozen then (s.modWin w Window.unfreeze).abandonFaulted w else s

/-- Step 2 of R184 at window `w`: an ONLINE window quiesces with DROP, a QUIESCING one takes quiesce mode DROP. -/
def State.softQuiesce (s : State) (w : WIdx) : State :=
  match (s.win w).state with
  | .online => s.quiesceDrop w
  | .quiescing => s.modWin w fun x => { x with quiesceMode := some .drop }
  | .frozen => s
  | .offline => s
  | .unused => s

/-- SOFT_RESET at the blocks: in progress, the two steps at every window, and the end at once where no group is left (R184,
R186). -/
def State.beginSoftReset (s : State) (abandonOrder quiesceOrder : List WIdx) : State :=
  ((visitOrder quiesceOrder).foldl State.softQuiesce
    ((visitOrder abandonOrder).foldl State.softAbandon { s with softReset := true })).softResetCheck

/-- SOFT_RESET. -/
def execSoftReset (abandonOrder quiesceOrder : List WIdx) (s : State) : Host.Outcome State Fault Refusal :=
  s.take (.softReset abandonOrder quiesceOrder) true none fun s => answer .accepted (s.beginSoftReset abandonOrder quiesceOrder)

end Sys2Proof.Machine
end

