-- ==== Sys2Proof/Machine/Serial.lean ====
section
/-! DEFINITION. The serial side of the management port: the frame decoder edge by edge of MCLK (R169, R170), what MDO carries, the fall
and the rise of MSEL_N (R170, R172): TRANSACTION_START and TRANSACTION_ENDS_EARLY. -/

namespace Sys2Proof.Machine

/-! ### MDO -/

/-- The byte MDO carries now, none at high impedance: the fill byte in COMMAND, OPERANDS and TRAILER, in RESULT the first byte of the
result buffer that is not clocked out (R169, R170). -/
def State.mdoByte (s : State) : Option Byte :=
  if s.resetAsserted then none
  else
    match s.frame with
    | .idle => none
    | .command => some fillByte
    | .operands => some fillByte
    | .result => s.buffer.head?
    | .trailer => some fillByte

/-- The level MDO carries now, none at high impedance: the next bit, most significant first, of its byte (R169). -/
def State.mdo (s : State) : Option Bool := s.mdoByte.map fun b => b.getLsbD (7 - s.shift.length)

/-! ### One rising edge of MCLK -/

/-- The state that a command of the port leaves; a command outside the port is none of them. -/
def State.afterCommand (s : State) (c : Instr) : State :=
  let o : Host.Outcome State Fault Refusal := match c with
    | .badCommand code => execBadCommand code s
    | .identify => execIdentify s
    | .readWindows first count => execReadWindows first count s
    | .writeWindow op => execWriteWindow op s
    | .setOnline w => execSetOnline w s
    | .setOfflineFinish w mode => execSetOfflineFinish w mode s
    | .setOfflineDrop w mode => execSetOfflineDrop w mode s
    | .seal w => execSeal w s
    | .release w => execRelease w s
    | .discard w => execDiscard w s
    | .clearFaultRetry w action => execClearFaultRetry w action s
    | .clearFaultAbandon w action => execClearFaultAbandon w action s
    | .readGroups w => execReadGroups w s
    | .readAreas first count => execReadAreas first count s
    | .writeArea a first count => execWriteArea a first count s
    | .readSlots first count => execReadSlots first count s
    | .popEvents n => execPopEvents n s
    | .readStats w zero => execReadStats w zero s
    | .softReset abandonOrder quiesceOrder => execSoftReset abandonOrder quiesceOrder s
    | _ => .next s
  match o with
  | .next t => t
  | .fault _ => s
  | .refused _ => s

/-- Byte `b` of the frame is received: it completes a command, which is taken, or the decoder waits for operand bytes in OPERANDS; MDO
carried the fill byte meanwhile (R170, R171). -/
def State.byteIn (s : State) (b : Byte) : State :=
  let bytes := s.received ++ [b]
  let u : State := { s with shift := [], received := bytes, masterRead := s.masterRead ++ [fillByte] }
  match commandOf bytes with
  | some c => u.afterCommand c
  | none => { u with frame := .operands }

/-- In COMMAND and OPERANDS the bit on MDI is sampled, and the eighth completes a byte (R169). -/
def State.bitIn (s : State) (bit : Bool) : State :=
  if s.shift.length < 7 then { s with shift := s.shift ++ [bit] } else s.byteIn (byteOfBits (s.shift ++ [bit]))

/-- A byte is clocked out: the master has it, and after the last byte of RESULT the decoder is in TRAILER (R170, R171). -/
def State.byteOut (s : State) (b : Byte) : State :=
  { s with
    shift := []
    masterRead := s.masterRead ++ [b]
    buffer := s.buffer.tail
    frame := if s.buffer.tail.isEmpty then .trailer else .result }

/-- In RESULT and TRAILER the bit on MDO is clocked out, and the eighth completes a byte; MDI is ignored (R169, R170). -/
def State.bitOut (s : State) : State :=
  match s.mdo with
  | none => s
  | some bit => if s.shift.length < 7 then { s with shift := s.shift ++ [bit] } else s.byteOut (byteOfBits (s.shift ++ [bit]))

/-- One rising edge of MCLK with this level of MDI; ignored in IDLE (R169, R170). -/
def State.clock (s : State) (bit : Bool) : State :=
  match s.frame with
  | .idle => s
  | .command => s.bitIn bit
  | .operands => s.bitIn bit
  | .result => s.bitOut
  | .trailer => s.bitOut

/-- One rising edge of MCLK for each of these levels of MDI. -/
def State.clocks (s : State) (mdi : List Bool) : State := mdi.foldl State.clock s

/-! ### MSEL_N -/

/-- MSEL_N falls: a transaction starts in COMMAND, with nothing received, nothing to send and nothing sent (R170). A decoder found
outside IDLE has seen MSEL_N rise before this fall (log 13). -/
def State.startTransaction (s : State) : State :=
  { s with frame := .command, shift := [], received := [], buffer := [], masterRead := [] }

/-- TRANSACTION_START; while RESET_N is asserted nothing starts (R188). -/
def execTransactionStart (s : State) : Host.Outcome State Fault Refusal :=
  .next (if s.resetAsserted then s else s.startTransaction)

/-- MSEL_N rises: the decoder returns to IDLE from any state. What it has received of a frame that is not complete is discarded, and so
are the result bytes not clocked out and the bits of a byte under way (R170, R172). -/
def State.endTransaction (s : State) : State := { s with frame := .idle, shift := [], received := [], buffer := [] }

/-- A run of the serial line: the edges of MCLK, then the rise of MSEL_N if there is one. -/
def State.serialRun (s : State) (r : SerialRun) : State := if r.rise then (s.clocks r.mdi).endTransaction else s.clocks r.mdi

/-- TRANSACTION_ENDS_EARLY; nothing happens where no transaction is under way (log 5). Without the rise it is the part of a
transaction that comes before another taking (log 14). -/
def execTransactionEndsEarly (r : SerialRun) (s : State) : Host.Outcome State Fault Refusal :=
  .next (if s.resetAsserted = true ∨ s.frame = .idle then s else s.serialRun r)

end Sys2Proof.Machine
end

