-- ==== Sys2Proof/Machine/Timers.lean ====
section
/-! DEFINITION. The takings of the hold unit and of the timers: REEVALUATION_PASS, HOLD_EXPIRY, AGE_EXPIRY and US_TICK (R148 to
R152, R78, R182). While RESET_N is asserted none of them acts (R19, R157, R182). -/

namespace Sys2Proof.Machine

/-! ### REEVALUATION_PASS (R149, R150) -/

/-- The write of hold slot `k` leaves the pending set (R149). -/
def State.unpend (s : State) (k : HoldNo) : State :=
  { s with holds := s.holds.map fun h => if h.slot = k then { h with pending := false } else h }

/-- The write of hold slot `k`, if it still stands in the list, is taken as a new arrival (R149). -/
def State.reevaluate (s : State) (k : HoldNo) : State :=
  match s.heldAt? k with
  | some h => (s.unpend k).takeWrite h.toWrite
  | none => s

/-- The hold slots of the pending writes, oldest first in arrival position. -/
def State.pendingSlots (s : State) : List HoldNo := (s.holds.filter fun h => h.pending).map Held.slot

/-- A re-evaluation pass: every write pending at its start, one by one, oldest first. A write that a change made in the pass
concerns is left pending for a further pass (R150). -/
def State.pass (s : State) : State := s.pendingSlots.foldl State.reevaluate s

/-- REEVALUATION_PASS. -/
def execReevaluationPass (s : State) : Host.Outcome State Fault Refusal :=
  .next (if s.resetAsserted then s else s.pass)

/-! ### HOLD_EXPIRY (R151, R152) -/

/-- R152: the expired AREA_WAIT write's source still owns the window's OPEN group, which then breaks. -/
def State.areaWaitExpired (s : State) (h : Held) : State :=
  match s.youngest h.window with
  | some g =>
    if g.state = .opened ∧ g.owner = h.source then s.breakOpen h.window .areaWaitExpired (some h.line) else s
  | none => s

/-- The hold of write `h` expires: REFUSED, its slot freed, HOLD_EXPIRED posted, the refused count advanced (R151), and for
AREA_WAIT the break of R152. -/
def State.expireHeld (s : State) (h : Held) : State :=
  let s1 := ((s.endWrite h.toWrite .refused).post h.window (evHoldExpired h.window h.source h.line)).bumpRefused h.window
  match h.reason with
  | .areaWait => s1.areaWaitExpired h
  | .conflict => s1
  | .queueFull => s1

/-- The expiry of hold slot `k`: nothing happens where the slot is free or its deadline is not reached (log 5). It comes after the
tick's own age expiries: of the two orders of R154 the model takes that one, a DESIGN CHOICE, unsafe (log 30). -/
def State.holdExpiry (s : State) (k : HoldNo) : State :=
  match s.heldAt? k with
  | some h => if s.reached h.deadline then s.expireHeld h else s
  | none => s

/-- HOLD_EXPIRY. -/
def execHoldExpiry (k : HoldNo) (s : State) : Host.Outcome State Fault Refusal :=
  .next (if s.resetAsserted then s else s.holdExpiry k)

/-! ### AGE_EXPIRY (R78) -/

/-- The age expiry of window `w`'s open group `g`: sealed with GROUP_AGED posted, then R76; or broken. GROUP_AGED is posted
before what the drain engine does with the group (R103; log 19). -/
def State.ageOut (s : State) (w : WIdx) (g : Group) : State :=
  match (s.win w).ageAction with
  | .seal => ((s.sealOpen w .age none none).post w (evGroupAged w g)).afterSeal w
  | .break_ => s.breakOpen w .age none

/-- The age deadline of window `w`'s OPEN group is reached (R78); nothing happens where there is none or it is not reached
(log 5). It is the act of AGE_EXPIRY and, in the taking of the tick that reaches it, of US_TICK (log 27). -/
def State.ageExpiry (s : State) (w : WIdx) : State :=
  match s.youngest w with
  | some g =>
    match g.state, g.ageDeadline with
    | .opened, some d => if s.reached d then s.ageOut w g else s
    | _, _ => s
  | none => s

/-- AGE_EXPIRY. -/
def execAgeExpiry (w : WIdx) (s : State) : Host.Outcome State Fault Refusal :=
  .next (if s.resetAsserted then s else s.ageExpiry w)

/-! ### US_TICK (R182) -/

/-- One µs tick: the time count advances by one, wrapping (R182), and every age timer whose deadline it reaches expires: "its expiry
makes the field absent in the taking that reaches the tick" (R180; log 27). R78 gives no order among windows whose deadlines fall on
one tick; by rising index is a DESIGN CHOICE, unsafe (log 29). R154 lets an age expiry and a hold expiry (AREA_WAIT) of one tick be
taken in either order; the age expiry first, within the tick, the hold expiry by a later HOLD_EXPIRY, is a DESIGN CHOICE, unsafe
(log 30). -/
def State.tick (s : State) : State :=
  (List.finRange 16).foldl State.ageExpiry { s with timeCount := s.timeCount + 1 }

/-- US_TICK; the time count starts from 0 at the release of RESET_N (R182). -/
def execUsTick (s : State) : Host.Outcome State Fault Refusal := .next (if s.resetAsserted then s else s.tick)

end Sys2Proof.Machine
end

