-- ==== Sys2Proof/Machine/Dispatch.lean ====
section
/-! DEFINITION. The dispatch: one arm for each command. -/

namespace Sys2Proof.Machine

def exec (i : Instr) (s : State) : Host.Outcome State Fault Refusal :=
  match i with
  | .upstreamRequest r => Sys2Proof.Machine.execUpstreamRequest r s
  | .upstreamResponse t => Sys2Proof.Machine.execUpstreamResponse t s
  | .grant => Sys2Proof.Machine.execGrant s
  | .downstreamIssue => Sys2Proof.Machine.execDownstreamIssue s
  | .downstreamResponse tag result data => Sys2Proof.Machine.execDownstreamResponse tag result data s
  | .reevaluationPass => Sys2Proof.Machine.execReevaluationPass s
  | .epochEvent d => Sys2Proof.Machine.execEpochEvent d s
  | .ageExpiry w => Sys2Proof.Machine.execAgeExpiry w s
  | .holdExpiry k => Sys2Proof.Machine.execHoldExpiry k s
  | .linkReset order => Sys2Proof.Machine.execLinkReset order s
  | .linkResetRelease => Sys2Proof.Machine.execLinkResetRelease s
  | .powerOnReset => Sys2Proof.Machine.execPowerOnReset s
  | .powerOnResetRelease epochHigh => Sys2Proof.Machine.execPowerOnResetRelease epochHigh s
  | .transactionEndsEarly r => Sys2Proof.Machine.execTransactionEndsEarly r s
  | .badCommand code => Sys2Proof.Machine.execBadCommand code s
  | .identify => Sys2Proof.Machine.execIdentify s
  | .readWindows first count => Sys2Proof.Machine.execReadWindows first count s
  | .writeWindow op => Sys2Proof.Machine.execWriteWindow op s
  | .setOnline w => Sys2Proof.Machine.execSetOnline w s
  | .setOfflineFinish w mode => Sys2Proof.Machine.execSetOfflineFinish w mode s
  | .setOfflineDrop w mode => Sys2Proof.Machine.execSetOfflineDrop w mode s
  | .seal w => Sys2Proof.Machine.execSeal w s
  | .release w => Sys2Proof.Machine.execRelease w s
  | .discard w => Sys2Proof.Machine.execDiscard w s
  | .clearFaultRetry w action => Sys2Proof.Machine.execClearFaultRetry w action s
  | .clearFaultAbandon w action => Sys2Proof.Machine.execClearFaultAbandon w action s
  | .readGroups w => Sys2Proof.Machine.execReadGroups w s
  | .readAreas first count => Sys2Proof.Machine.execReadAreas first count s
  | .writeArea a first count => Sys2Proof.Machine.execWriteArea a first count s
  | .readSlots first count => Sys2Proof.Machine.execReadSlots first count s
  | .popEvents n => Sys2Proof.Machine.execPopEvents n s
  | .readStats w zero => Sys2Proof.Machine.execReadStats w zero s
  | .softReset abandonOrder quiesceOrder => Sys2Proof.Machine.execSoftReset abandonOrder quiesceOrder s
  | .usTick => Sys2Proof.Machine.execUsTick s
  | .transactionStart => Sys2Proof.Machine.execTransactionStart s

end Sys2Proof.Machine
end

