-- ==== Sys2Proof/Machine/Idle.lean ====
section
/-! DEFINITION. What the block does with no command waiting: the delivery of epoch events still on their way, the acceptance of a
request that waits on the upstream channel, and nothing otherwise. -/

namespace Sys2Proof.Machine

/-- What the block does by itself when no command waits: an epoch event still on its way to a window is taken there, one window a step
(R90; log 9); otherwise the request standing on the upstream channel is accepted if ready is asserted (log 3); otherwise nothing. -/
def State.idle (s : State) : State :=
  match s.dueWindow? with
  | some w => s.epochDeliver w
  | none => s.acceptWaiting

end Sys2Proof.Machine
end

