-- ==== Sys2Proof/WellFormed.lean ====
section
/-! DEFINITION. Which operands each command can come with. A term outside these is none of the block's commands: a request with
bytes where it carries none, a frame that another row stands for, an epoch event with neither a level nor
a delivery, a run of the serial line with neither an edge nor a rise. Values the
block itself checks (indexes, counts, fields) are not restricted here. -/

namespace Sys2Proof

/-- The bytes outside the lanes a WRITE enables are 0, and a READ carries none (R2: "one byte for each enabled lane", "WRITE
only"). -/
def UpRequest.wf (r : UpRequest) : Bool :=
  (List.finRange 32).all fun i => (r.kind == .write && r.lanes.getLsbD i.val) || r.data[i] == 0#8

/-- The sixteen command codes of R175, which BAD_COMMAND does not carry. -/
def Instr.commandCodes : List Nat := [0x01, 0x10, 0x11, 0x12, 0x13, 0x20, 0x21, 0x22, 0x23, 0x24, 0x30, 0x31, 0x32, 0x40, 0x41, 0x5A]

/-- A command with operands its row can have. -/
def Instr.wf : Instr → Bool
  | .upstreamRequest r => r.wf
  | .upstreamResponse _ => true
  | .grant => true
  | .downstreamIssue => true
  | .downstreamResponse _ _ _ => true
  | .reevaluationPass => true
  | .epochEvent d => !d.levels.isEmpty || !d.windows.isEmpty
  | .ageExpiry _ => true
  | .holdExpiry _ => true
  | .linkReset order => decide order.Nodup
  | .linkResetRelease => true
  | .powerOnReset => true
  | .powerOnResetRelease _ => true
  | .transactionEndsEarly r => r.rise || !r.mdi.isEmpty
  | .badCommand code => !commandCodes.contains code.toNat
  | .identify => true
  | .readWindows _ _ => true
  | .writeWindow _ => true
  | .setOnline _ => true
  | .setOfflineFinish _ mode => mode != 1#8
  | .setOfflineDrop _ mode => mode != 0#8
  | .seal _ => true
  | .release _ => true
  | .discard _ => true
  | .clearFaultRetry _ action => action != 1#8
  | .clearFaultAbandon _ action => action != 0#8
  | .readGroups _ => true
  | .readAreas _ _ => true
  | .writeArea _ _ _ => true
  | .readSlots _ _ => true
  | .popEvents _ => true
  | .readStats _ _ => true
  | .softReset abandonOrder quiesceOrder => decide abandonOrder.Nodup && decide quiesceOrder.Nodup
  | .usTick => true
  | .transactionStart => true

end Sys2Proof
end

