-- ==== Sys2Proof/Safety.lean ====
section
/-! DEFINITION. The laws the spec states of the block's records, as decidable predicates over State. Each is a law that every step
keeps; with them the conditions under which the statements of Certificates/Slice0/Obligations.lean say what a command does. -/

namespace Sys2Proof

/-- The commands of the management port whose taking ends in RESULT (R171, R175). -/
def Instr.isPortCommand : Instr → Bool
  | .upstreamRequest _ => false
  | .upstreamResponse _ => false
  | .grant => false
  | .downstreamIssue => false
  | .downstreamResponse _ _ _ => false
  | .reevaluationPass => false
  | .epochEvent _ => false
  | .ageExpiry _ => false
  | .holdExpiry _ => false
  | .linkReset _ => false
  | .linkResetRelease => false
  | .powerOnReset => false
  | .powerOnResetRelease _ => false
  | .transactionEndsEarly _ => false
  | .badCommand _ => true
  | .identify => true
  | .readWindows _ _ => true
  | .writeWindow _ => true
  | .setOnline _ => true
  | .setOfflineFinish _ _ => true
  | .setOfflineDrop _ _ => true
  | .seal _ => true
  | .release _ => true
  | .discard _ => true
  | .clearFaultRetry _ _ => true
  | .clearFaultAbandon _ _ => true
  | .readGroups _ => true
  | .readAreas _ _ => true
  | .writeArea _ _ _ => true
  | .readSlots _ _ => true
  | .popEvents _ => true
  | .readStats _ _ => true
  | .softReset _ _ => true
  | .usTick => false
  | .transactionStart => false

/-- The commands answered during a soft reset: the seven that read, and a frame with an unknown code, whose check comes first
(R173). -/
def Instr.isPermitted : Instr → Bool
  | .badCommand _ => true
  | .identify => true
  | .readWindows _ _ => true
  | .readGroups _ => true
  | .readAreas _ _ => true
  | .readSlots _ _ => true
  | .popEvents _ => true
  | .readStats _ _ => true
  | _ => false

/-- The window index operand of a command of the port (R173, R175). -/
def Instr.windowIndex? : Instr → Option Byte
  | .readWindows first _ => some first
  | .writeWindow op => some op.index
  | .setOnline w => some w
  | .setOfflineFinish w _ => some w
  | .setOfflineDrop w _ => some w
  | .seal w => some w
  | .release w => some w
  | .discard w => some w
  | .clearFaultRetry w _ => some w
  | .clearFaultAbandon w _ => some w
  | .readGroups w => some w
  | .readStats w _ => some w
  | _ => none

/-- The commands that the bytes of a frame spell: a command of the port with operands its row can have. The orders of a SOFT_RESET are
no part of its frame (log 8), and a frame with an unlisted mode or action is spelled by the row of code 0 (log 15). -/
def Instr.isSpelled (c : Instr) : Bool :=
  c.isPortCommand && c.wf &&
    match c with
    | .setOfflineDrop _ mode => mode == 1#8
    | .clearFaultAbandon _ action => action == 1#8
    | .softReset abandonOrder quiesceOrder => abandonOrder.isEmpty && quiesceOrder.isEmpty
    | _ => true

end Sys2Proof

namespace Sys2Proof.Machine

/-! ### The event queue (R161) -/

/-- At most 32 records, in posting order: successive records bear successive sequences, and the last one stands just before the next
sequence (R158, R161). -/
abbrev State.eventLaw (s : State) : Prop :=
  s.events.length ≤ Config.eventRecords ∧
    s.events.map Event.seq = (List.range s.events.length).map fun i => s.nextSeq - BitVec.ofNat 8 (s.events.length - i)

/-! ### Windows and group queues (R20, R27, R33, R35, R61) -/

/-- The place of a group state in the shape of a queue: drained, RELEASED, SEALED, OPEN or BROKEN (R61). -/
def GState.rank : GState → Nat
  | .draining => 0
  | .marking => 0
  | .faulted => 0
  | .released => 1
  | .sealed => 2
  | .opened => 3
  | .broken => 3

/-- A record in state `a` may stand before one in state `b`: at most one drained record, and it is the oldest; at most one OPEN or
BROKEN record, and it is the youngest (R61). -/
abbrev GState.mayPrecede (a b : GState) : Prop := a.rank ≤ b.rank ∧ a.rank < 3 ∧ 0 < b.rank

/-- The shape of a group queue (R61). -/
abbrev Window.queueShape (x : Window) : Prop :=
  x.groups.length ≤ Config.groupRecords ∧ x.groups.Pairwise fun a b => a.state.mayPrecede b.state

/-- The record of one window: the queue's shape; no group in UNUSED and OFFLINE (R27); frozen-from present only in FROZEN, quiesce
mode only in QUIESCING (R20); only RELEASED or later groups in QUIESCING and in a window frozen from it (R33); a FROZEN window holds
its oldest group FAULTED and none OPEN, and no other window holds a FAULTED group (R35, R102). -/
abbrev Window.law (x : Window) : Prop :=
  x.queueShape ∧
    (x.state.live = false → x.groups = []) ∧
    (x.frozenFrom.isSome = true ↔ x.state = .frozen) ∧
    (x.quiesceMode.isSome = true ↔ x.state = .quiescing) ∧
    ((x.state = .quiescing ∨ x.frozenFrom = some .quiescing) → ∀ g ∈ x.groups, g.state.releasedOrLater = true) ∧
    (x.state = .frozen → x.groups.head?.map Group.state = some .faulted ∧ ∀ g ∈ x.groups, g.state ≠ .opened) ∧
    (∀ g ∈ x.groups, g.state = .faulted → x.state = .frozen)

/-- The hold list: no hold slot twice, so at most 8 writes, and every held write belongs to an ONLINE window (R145). -/
abbrev State.holdLaw (s : State) : Prop :=
  (s.holds.map Held.slot).Nodup ∧ ∀ h ∈ s.holds, (s.win h.window).state = .online

/-- While a soft reset is in progress no window is ONLINE or FROZEN (R157, R185). -/
abbrev State.softLaw (s : State) : Prop :=
  s.softReset = true → ∀ w : WIdx, (s.win w).state ≠ .online ∧ (s.win w).state ≠ .frozen

/-- The law of the window table, the group queues and the hold list. -/
abbrev State.tableLaw (s : State) : Prop := (∀ w : WIdx, (s.win w).law) ∧ s.holdLaw ∧ s.softLaw

/-! ### Configuration (R10, R20 to R23) -/

/-- The configuration of a window that is not UNUSED: one line or more, at most 33,554,432, inside the address space; marker fields
absent exactly in EPOCH mode, the marker line inside the window; a hold limit of 1 or more (R20, R22). -/
abbrev Window.configLaw (x : Window) : Prop :=
  x.state = .unused ∨
    (1 ≤ x.size.toNat ∧ x.size.toNat ≤ Config.maxWindowLines ∧ x.base.toNat + x.size.toNat ≤ 2 ^ 35 ∧
      (x.marker = none ↔ x.trigger = .epoch) ∧
      (∀ m ∈ x.marker, m.offset.toNat < x.size.toNat) ∧
      x.holdLimit ≠ 0)

/-- Every configured window is well configured, and no line lies in two of them (R23). -/
abbrev State.configLaw (s : State) : Prop :=
  (∀ w : WIdx, (s.win w).configLaw) ∧
    ∀ v w : WIdx, v ≠ w → (s.win v).state ≠ .unused → (s.win w).state ≠ .unused →
      rangesShare (s.win v).base.toNat (s.win v).size.toNat (s.win w).base.toNat (s.win w).size.toNat = false

/-! ### Areas and slots (R41, R42, R45, R47) -/

/-- Every area's extent lies within the slots 0-511 (R45). -/
abbrev Area.law (a : Area) : Prop := a.first < Config.stagingSlots ∧ a.first + a.count ≤ Config.stagingSlots

/-- What names an entry (R47). -/
def Entry.key (e : Entry) : WIdx × Byte × Line := (e.window, e.group, e.line)

/-- The areas' extents lie in the table and no two that are not empty share a slot (R45); the slots stand in their canonical form,
and no two hold the same window, group number and line (R47). -/
abbrev State.slotLaw (s : State) : Prop :=
  (∀ a : AIdx, (s.area a).law) ∧
    (∀ a b : AIdx, a ≠ b → 1 ≤ (s.area a).count → 1 ≤ (s.area b).count →
      rangesShare (s.area a).first (s.area a).count (s.area b).first (s.area b).count = false) ∧
    slotsWf s.slots = true ∧
    (s.slots.map Entry.key).Nodup

/-! ### Entries, groups and used counts (R41, R42, R60) -/

/-- Every entry belongs to a group record in its window's queue and lies in the extent of its window's area; a group's entry count
is the number of its entries, none in BROKEN and MARKING (R62); an area's used count is the number of entries of the windows that
name it (R41, R42, R60). -/
abbrev State.entryLaw (s : State) : Prop :=
  (∀ e ∈ s.slots, (∃ g ∈ (s.win e.window).groups, g.number = e.group) ∧ (s.area (s.win e.window).area).holds e.slot = true) ∧
    (∀ w : WIdx, ∀ g ∈ (s.win w).groups,
      (g.entryCount = s.slots.countP fun e => e.ofGroup w g.number) ∧
        (g.state = .broken ∨ g.state = .marking → g.entryCount = 0)) ∧
    ∀ a : AIdx, (s.area a).used = s.slots.countP fun e => (s.win e.window).area == a

/-- Every record of every queue opened within the last 247 openings of its window, and no two of a queue bear the same number. R25:
"numbers repeat only after 256 openings, so no two records in one queue bear the same number"; a record that outlives that many
openings breaks it (log 17). One re-evaluation pass opens at most 8 groups. -/
abbrev State.numbersFresh (s : State) : Prop :=
  ∀ w : WIdx, ((s.win w).groups.map Group.number).Nodup ∧
    ∀ g ∈ (s.win w).groups, 1 ≤ ((s.win w).nextGroup - g.number).toNat ∧ ((s.win w).nextGroup - g.number).toNat ≤ 247

/-! ### Ports (R7, R13, R15, R107) -/

/-- The transit record waits as `wt`. -/
def State.waits (s : State) (t : RecNo) (wt : Wait) : Bool :=
  match s.rcd t with
  | some r => r.wait == wt
  | none => false

/-- The forwarder's pending list holds exactly the records that wait CREDIT, none twice (R13); a credit HELD by FORWARDER with a client
serves a record that waits DOWNSTREAM, and no record has two credits (R7, R15); a write on path GROUP waits on neither. -/
abbrev State.forwardLaw (s : State) : Prop :=
  s.fwd.Nodup ∧
    (∀ t : RecNo, t ∈ s.fwd ↔ s.waits t .credit = true) ∧
    (∀ c : CreditNo, ∀ t : RecNo, s.credit c = .forwarder (some t) → s.waits t .downstream = true) ∧
    (∀ c d : CreditNo, ∀ t : RecNo, s.credit c = .forwarder (some t) → s.credit d = .forwarder (some t) → c = d) ∧
    ∀ t : RecNo, ∀ r ∈ s.rcd t, r.path = .group → r.wait ≠ .credit ∧ r.wait ≠ .downstream

/-- The drain engine holds at most 8 credits (R15, R107). -/
abbrev State.creditLaw (s : State) : Prop := s.drainHeld ≤ Config.drainCredits

/-! ### Age deadlines (R60, R78, R180) -/

/-- The record's age deadline, if present, is that of an OPEN group (R60), and lies one tick or more, and less than 65,536, ahead of
the tick `now` (R180). -/
def Group.deadlineAhead (g : Group) (now : Tick) : Bool :=
  match g.ageDeadline with
  | none => true
  | some d => g.state == .opened && decide (1 ≤ (d - now).toNat) && decide ((d - now).toNat < 65536)

/-- While RESET_N is asserted no window holds a group (R19, R87), and no record shows a deadline that has passed (R60, R180). -/
abbrev State.deadlineLaw (s : State) : Prop :=
  (s.resetAsserted = true → ∀ w : WIdx, (s.win w).groups = []) ∧
    ∀ w : WIdx, ∀ g ∈ (s.win w).groups, g.deadlineAhead s.timeCount = true

/-! ### When a command acts: the conditions of the statements -/

/-- No two records of writes on path GROUP that wait for their answer bear the same source and tag (R9). -/
abbrev State.oneRecordEach (s : State) : Prop :=
  ∀ t u : RecNo, ∀ x ∈ s.rcd t, ∀ y ∈ s.rcd u, x.path = .group → y.path = .group → x.result = none → y.result = none →
    x.source = y.source → x.tag = y.tag → t = u

/-- The port is ready for any frame: RESET_N released, the decoder in COMMAND with nothing received (R170, R188). -/
abbrev State.portTakes (s : State) : Prop := s.resetAsserted = false ∧ s.frame = .command ∧ s.shift = [] ∧ s.received = []

/-- `s` with a status byte and result bytes in the result buffer, the decoder in RESULT, and no byte of them clocked out (R170, R171,
R174). -/
def State.withReply (s : State) (bytes : List Byte) : State :=
  { s with frame := .result, shift := [], received := [], buffer := bytes, masterRead := [] }

/-- The upstream channel is free for request `r`: no other request waits on it (R2; log 3). -/
abbrev State.channelFor (s : State) (r : UpRequest) : Prop := ∀ q ∈ s.upWaiting, q = r

/-- What the event unit holds: the queue, the next sequence and the pending lost count (R161). -/
def State.eventUnit (s : State) : List Event × Byte × Byte := (s.events, s.nextSeq, s.lost)

/-- The request passes the checks made at acceptance: it is accepted, its byte enable set is not empty, and no transit record holds its
source and tag (R2, R8, R9). -/
abbrev State.classifies (s : State) (r : UpRequest) : Prop :=
  s.channelFor r ∧ s.upReady = true ∧ r.lanes ≠ 0 ∧ ∀ u : RecNo, ∀ x ∈ s.rcd u, ¬(x.source = r.source ∧ x.tag = r.tag)

/-- Window `w` is the one window, UNUSED ones apart, whose range holds line `l` (R10). -/
abbrev State.inWindow (s : State) (l : Line) (w : WIdx) : Prop :=
  (s.win w).state ≠ .unused ∧ (s.win w).contains l = true ∧
    ∀ v : WIdx, v ≠ w → (s.win v).state ≠ .unused → (s.win v).contains l = false

/-- A WRITE that the classifier routes to window `w`, whose state is ONLINE (R10). -/
abbrev State.arrives (s : State) (r : UpRequest) (w : WIdx) : Prop :=
  s.classifies r ∧ r.kind = .write ∧ s.inWindow r.line w ∧ (s.win w).state = .online

/-- The record of a write on path GROUP to window `w` (R5, R10). -/
def groupRecord (r : UpRequest) (w : WIdx) : Transit := { acceptedRecord r with path := .group, window := some w }

/-- The request taken into transit record `t` as `x`, the channel free for the next one (R2, R5). -/
def State.intake (s : State) (t : RecNo) (x : Transit) : State :=
  { s with upWaiting := none, transit := s.transit.set t.val (some x) t.isLt }

/-- Slot `k` is the lowest-numbered FREE slot of the extent of area `a` (R49). -/
abbrev State.lowestFree (s : State) (a : AIdx) (k : Nat) : Prop :=
  (s.area a).first ≤ k ∧ k < (s.area a).first + (s.area a).count ∧ (∀ e ∈ s.slots, e.slot ≠ k) ∧
    ∀ j, (s.area a).first ≤ j → j < k → ∃ e ∈ s.slots, e.slot = j

/-- The extent of area `a` holds no FREE slot (R50). -/
abbrev State.areaFull (s : State) (a : AIdx) : Prop :=
  ∀ j, (s.area a).first ≤ j → j < (s.area a).first + (s.area a).count → ∃ e ∈ s.slots, e.slot = j

/-- Window `w` has no OPEN or BROKEN group: its queue is empty or its youngest record is SEALED or later (R64, R61). -/
abbrev State.noOpenGroup (s : State) (w : WIdx) : Prop := ∀ g ∈ s.youngest w, g.state.sealedOrLater = true

/-- Credit `c` is the lowest-numbered FREE one (R15). -/
abbrev State.lowestCredit (s : State) (c : CreditNo) : Prop := s.credit c = .free ∧ ∀ d : CreditNo, d < c → s.credit d ≠ .free

/-- Nothing but the records a write group can touch has changed: windows, areas, slots, the hold list, the transit table and the event
unit; the ports' lists, the credits, the turn pointer, the counters, the port and the pins are the same. -/
abbrev State.sameOutsideGroups (s t : State) : Prop :=
  t = { s with
    windows := t.windows, areas := t.areas, slots := t.slots, holds := t.holds, transit := t.transit,
    events := t.events, nextSeq := t.nextSeq, lost := t.lost }

end Sys2Proof.Machine
end

