-- ==== Sys2Proof/Certificates/Slice0/Obligations.lean ====
section
/-! DEFINITION. The statements about the model, one `def Obligations.<Name> : Prop` each, in the order of OBLIGATIONS.json. A conclusion
of the form `exec c s = .next { s with … }` states the result and the frame together: every field that is not named is unchanged. -/

open Sys2Proof Sys2Proof.Machine

/-! ### The queue of commands and reset -/

/-- A step runs the command at the front of the queue on the state with the queue's rest. The queue is the model's (log 1). -/
def Obligations.StepTakesFrontCommand : Prop :=
  ∀ (c : Instr) (rest : List Instr) (s : State), s.pending = c :: rest → step s = exec c { s with pending := rest }

/-- The upstream channel between commands (model's choice, log 3 and log 4): a request presented while ready is deasserted
stands on the channel, in place of one that stood there before (R2, R6); with no command waiting and no epoch event on its way it is
accepted once ready is asserted, and otherwise the block idles. -/
def Obligations.ChannelWaitsForReady : Prop :=
  ∀ s : State,
    (∀ r : UpRequest, s.upReady = false → exec (.upstreamRequest r) s = .next { s with upWaiting := some r }) ∧
    (s.pending = [] → s.resetAsserted = true ∨ (∀ w, s.due w = []) →
      (∀ r ∈ s.upWaiting, s.upReady = true → step s = exec (.upstreamRequest r) s) ∧
      (s.upWaiting = none ∨ s.upReady = false → step s = .next s))

/-- The values after power-on reset that the reset tables of R19, R40, R59, R87, R100, R127, R142, R157, R168 and R188 give.
-/
def Obligations.ResetState : Prop :=
  let s := State.reset
  (∀ t, s.rcd t = none) ∧ s.upReady = true ∧ s.fwd = [] ∧ (∀ c, s.credit c = .free) ∧ s.issue = [] ∧ s.lastGrant = .forwarder ∧
    (∀ w, s.win w =
      { state := .unused, base := 0, size := 0, area := 0, trigger := .marker, marker := some ⟨0, 0, .early⟩, policy := .refuse,
        holdLimit := 0, ageLimit := 0, ageAction := .seal, enables := 0, nextGroup := 0, frozenFrom := none, quiesceMode := none,
        stats := ⟨0, 0, 0, 0⟩, groups := [] }) ∧
    (∀ a, s.area a = ⟨0, 0, 0⟩) ∧ s.slots = [] ∧ s.turn = none ∧ s.holds = [] ∧ s.epochCounter = 0 ∧ (∀ w, s.due w = []) ∧
    s.events = [] ∧ s.nextSeq = 0 ∧ s.lost = 0 ∧ s.alertAsserted = false ∧ s.frame = .idle ∧ s.shift = [] ∧ s.received = [] ∧
    s.buffer = [] ∧ s.softReset = false ∧ s.timeCount = 0

/-! ### Laws that every step keeps -/

/-- Every law below holds right after reset. -/
def Obligations.LawsHoldAtReset : Prop :=
  let s := State.reset
  s.eventLaw ∧ s.tableLaw ∧ s.configLaw ∧ s.slotLaw ∧ s.entryLaw ∧ s.forwardLaw ∧ s.creditLaw ∧ s.deadlineLaw

/-- Every step keeps the law of the event queue (R161). -/
def Obligations.StepKeepsEventLaw : Prop := ∀ s t : State, s.eventLaw → step s = .next t → t.eventLaw

/-- Every step keeps the law of the windows, the group queues and the hold list (R20, R27, R33, R35, R61, R145). -/
def Obligations.StepKeepsTableLaw : Prop := ∀ s t : State, s.tableLaw → step s = .next t → t.tableLaw

/-- Every step keeps the law of the windows' configuration: no line lies in two windows that are not UNUSED (R22, R23). -/
def Obligations.StepKeepsConfigLaw : Prop := ∀ s t : State, s.configLaw → step s = .next t → t.configLaw

/-- Every step keeps the law of the areas and the slots (R41, R45, R47). -/
def Obligations.StepKeepsSlotLaw : Prop := ∀ s t : State, s.slotLaw → step s = .next t → t.slotLaw

/-- Every step keeps the law that ties entries, groups and used counts together (R41, R42, R60), in states whose group numbers
are as R25 says they are (log 17). -/
def Obligations.StepKeepsEntryLaw : Prop :=
  ∀ s t : State, s.entryLaw → s.tableLaw → s.slotLaw → s.numbersFresh → step s = .next t → t.entryLaw

/-- Every step keeps the law of the forwarder's pending list and the credits of the forwarder (R7, R13, R15), and none gives
the drain engine a ninth credit (R15, R107). -/
def Obligations.StepKeepsPortLaws : Prop :=
  ∀ s t : State, step s = .next t → (s.forwardLaw → t.forwardLaw) ∧ (s.creditLaw → t.creditLaw)

/-! ### Requests and responses on the upstream port (chapter 1) -/

/-- R8: an accepted request with an empty byte enable set is answered REFUSED at once with path NONE and wait ANSWER, whatever
other records hold: it is not checked for a duplicate, not classified, not counted and posts no event; nothing else of the
part changes. -/
def Obligations.EmptyRequestIsRefused : Prop :=
  ∀ (s : State) (r : UpRequest), s.channelFor r → s.upReady = true → r.lanes = 0 →
    ∃ t : RecNo, s.rcd t = none ∧
      exec (.upstreamRequest r) s =
        .next (s.intake t { acceptedRecord r with path := .noPath, wait := .answer, result := some .refused })

/-- A duplicate is answered REFUSED at once with path NONE and wait ANSWER; the earlier request's record, whatever it waits
on, is not affected and nothing else changes (R9). -/
def Obligations.DuplicateIsRefused : Prop :=
  ∀ (s : State) (r : UpRequest) (u : RecNo) (x : Transit),
    s.channelFor r → s.upReady = true → r.lanes ≠ 0 → s.rcd u = some x → x.source = r.source → x.tag = r.tag →
    ∃ t : RecNo, s.rcd t = none ∧ t ≠ u ∧
      exec (.upstreamRequest r) s =
        .next (s.intake t { acceptedRecord r with path := .noPath, wait := .answer, result := some .refused })

/-- A request in no window, or in an OFFLINE one, takes path PASS and joins the tail of the forwarder's pending list (R10,
R13). -/
def Obligations.PassThroughJoinsPendingList : Prop :=
  ∀ (s : State) (r : UpRequest), s.classifies r →
    (∀ w : WIdx, (s.win w).contains r.line = true → (s.win w).state = .unused ∨ (s.win w).state = .offline) →
    ∃ t : RecNo, s.rcd t = none ∧
      exec (.upstreamRequest r) s =
        .next { s.intake t { acceptedRecord r with path := .pass, wait := .credit } with fwd := s.fwd ++ [t] }

/-- A due response is sent and its record freed; while LINK_RST_N or RESET_N is asserted, and where none is due, nothing is
sent (R3, R5; log 5). -/
def Obligations.ResponseIsSentOnce : Prop :=
  ∀ (s : State) (t : RecNo),
    (∀ x res, s.resetAsserted = false → s.linkAsserted = false → s.rcd t = some x → x.wait = .answer → x.result = some res →
      exec (.upstreamResponse t) s =
        .next { s with
          transit := s.transit.set t.val none t.isLt
          upSent := some { source := x.source, tag := x.tag, result := res, data := x.readData } }) ∧
    (s.resetAsserted = true ∨ s.linkAsserted = true ∨ s.rcd t = none ∨ (∃ x ∈ s.rcd t, x.wait ≠ .answer ∨ x.result = none) →
      exec (.upstreamResponse t) s = .next s)

/-! ### Writes into windows (chapters 2, 3, 4 and 8) -/

/-- The sort of R65: at the marker line of a window in MARKER or MARKER_EPOCH mode by the byte enable set; elsewhere, and in
EPOCH mode, every write is a data write. An owner's marker write is answered DONE (EARLY) or waits for its group's end as the
pending marker response (LATE); it seals the group with cause MARKER and the write's eight bytes, and marks the window's held
writes. In MARKER_EPOCH mode the group stays SEALED. In MARKER mode it is released too, and the window's only group is taken
by the drain engine where no orphaned write remains: DRAINING with entries, MARKING without; behind a group that drains it waits
RELEASED (R70, R72, R73, R75, R76, R103, R104, R148). A marker write that finds no open group, and room in the queue, opens a group
with zero entries for its source and seals it in the same taking, with the same outcomes (R66, R71). -/
def Obligations.MarkerWriteSeals : Prop :=
  (∀ (x : Window) (l : Line) (lanes : Lanes),
      (x.marker = none → x.shape l lanes = .data) ∧
      ∀ m ∈ x.marker,
        (l ≠ x.base + m.offset.setWidth 35 → x.shape l lanes = .data) ∧
        (l = x.base + m.offset.setWidth 35 →
          (lanes = markerLanes m.laneGroup → x.shape l lanes = .marker m.laneGroup m.completion) ∧
          (lanes &&& markerLanes m.laneGroup = 0 → x.shape l lanes = .data) ∧
          (lanes ≠ markerLanes m.laneGroup → lanes &&& markerLanes m.laneGroup ≠ 0 → x.shape l lanes = .mix))) ∧
  (∀ (s : State) (r : UpRequest) (w : WIdx) (g : Group) (lg : Fin 4) (c : Completion),
      s.arrives r w → (s.win w).shape r.line r.lanes = .marker lg c → s.youngest w = some g → g.state = .opened →
      g.owner = r.source →
      ∃ t : RecNo, s.rcd t = none ∧
        (let bytes : MarkerData := Vector.ofFn fun j : Fin 8 => r.data[8 * lg.val + j.val]
         let x : Transit := match c with
           | .early => { groupRecord r w with wait := .answer, result := some .done }
           | .late => { groupRecord r w with wait := .publication }
         let y : Group :=
           { g with
             state := .sealed, sealCause := some .marker, ageDeadline := none, markerData := some bytes
             pendingMarker := match c with
               | .early => none
               | .late => some (r.source, r.tag) }
         let u : State :=
           { s.intake t x with holds := s.holds.map fun h : Held => if h.window = w then { h with pending := true } else h }
         ((s.win w).trigger = .markerEpoch →
           exec (.upstreamRequest r) s =
             .next (u.setWin w { s.win w with groups := (s.win w).groups.dropLast ++ [y] })) ∧
         ((s.win w).trigger = .marker → (s.win w).groups = [g] → s.hasOrphan w = false →
           exec (.upstreamRequest r) s =
             .next (u.setWin w
               { s.win w with
                 groups :=
                   [{ y with
                      state := if g.entryCount = 0 then .marking else .draining, releaseEpoch := none
                      issued := 0, acked := 0, outstanding := 0, failedLine := none }] })) ∧
         ((s.win w).trigger = .marker → (∃ o ∈ s.oldest w, o.state = .draining ∨ o.state = .marking) →
           (∀ z ∈ (s.win w).groups, z.state ≠ .sealed) →
           exec (.upstreamRequest r) s =
             .next (u.setWin w
               { s.win w with groups := (s.win w).groups.dropLast ++ [{ y with state := .released, releaseEpoch := none }] })))) ∧
  (∀ (s : State) (r : UpRequest) (w : WIdx) (lg : Fin 4) (c : Completion),
      s.arrives r w → (s.win w).shape r.line r.lanes = .marker lg c → s.noOpenGroup w → (s.win w).groups.length < 4 →
      ∃ t : RecNo, s.rcd t = none ∧
        (let bytes : MarkerData := Vector.ofFn fun j : Fin 8 => r.data[8 * lg.val + j.val]
         let x : Transit := match c with
           | .early => { groupRecord r w with wait := .answer, result := some .done }
           | .late => { groupRecord r w with wait := .publication }
         let y : Group :=
           { number := (s.win w).nextGroup, owner := r.source, state := .sealed, entryCount := 0, markerData := some bytes
             sealCause := some .marker, releaseEpoch := none, ageDeadline := none, issued := 0, acked := 0, outstanding := 0
             failedLine := none
             pendingMarker := match c with
               | .early => none
               | .late => some (r.source, r.tag) }
         let u : State :=
           { s.intake t x with holds := s.holds.map fun h : Held => if h.window = w then { h with pending := true } else h }
         ((s.win w).trigger = .markerEpoch →
           exec (.upstreamRequest r) s =
             .next (u.setWin w { s.win w with nextGroup := (s.win w).nextGroup + 1, groups := (s.win w).groups ++ [y] })) ∧
         ((s.win w).trigger = .marker → (s.win w).groups = [] → s.hasOrphan w = false →
           exec (.upstreamRequest r) s =
             .next (u.setWin w
               { s.win w with nextGroup := (s.win w).nextGroup + 1, groups := [{ y with state := .marking }] })) ∧
         ((s.win w).trigger = .marker → (∃ o ∈ s.oldest w, o.state = .draining ∨ o.state = .marking) →
           (∀ z ∈ (s.win w).groups, z.state ≠ .sealed) →
           exec (.upstreamRequest r) s =
             .next (u.setWin w
               { s.win w with
                 nextGroup := (s.win w).nextGroup + 1, groups := (s.win w).groups ++ [{ y with state := .released }] }))))

/-- The refusals at arrival that change no group (R26, R64, R65, R67, R81, R144, R147): the write is answered REFUSED at once,
WRITE_REFUSED is posted with the cause, and the refused count advances. -/
def Obligations.WriteRefusals : Prop :=
  ∀ (s : State) (r : UpRequest) (w : WIdx) (c : Cause),
    s.classifies r → r.kind = .write → s.inWindow r.line w →
    (let x := s.win w
     let full := ∀ k : HoldNo, ∃ h ∈ s.holds, h.slot = k
     ((x.state = .quiescing ∨ x.state = .frozen) ∧ c = .windowState) ∨
     (x.state = .online ∧ x.shape r.line r.lanes = .mix ∧ c = .markerMix) ∨
     (x.state = .online ∧ x.shape r.line r.lanes ≠ .mix ∧
       (∃ g ∈ s.youngest w, (g.state = .opened ∨ g.state = .broken) ∧ g.owner ≠ r.source) ∧
       ((x.policy = .refuse ∧ c = .conflict) ∨ (x.policy = .hold ∧ full ∧ c = .holdFull))) ∨
     (x.state = .online ∧ x.shape r.line r.lanes = .data ∧
       (∃ g ∈ s.youngest w, g.state = .broken ∧ g.owner = r.source) ∧ c = .broken) ∨
     (x.state = .online ∧ x.shape r.line r.lanes ≠ .mix ∧ s.noOpenGroup w ∧ 4 ≤ x.groups.length ∧
       ((x.policy = .refuse ∧ c = .queueFull) ∨ (x.policy = .hold ∧ full ∧ c = .holdFull)))) →
    ∃ t : RecNo, s.rcd t = none ∧
      exec (.upstreamRequest r) s =
        .next (((s.intake t { groupRecord r w with wait := .answer, result := some .refused }).post w
          { kind := .writeRefused, window := some w, group := none, source := some r.source, cause := some c,
            line := some r.line }).bumpRefused w)

/-- A write is held under HOLD for a conflict or a full queue, and whatever the policy when its owner's area is exhausted
while some slot of it belongs to a SEALED or later group: the lowest-numbered free hold slot, last in the list, the deadline
the present tick plus the hold limit; no event, no count, no group changed (R50, R51, R67, R144 to R146). The bytes of lanes
not enabled are kept 0, the model's choice (log 20). -/
def Obligations.WriteIsHeld : Prop :=
  ∀ (s : State) (r : UpRequest) (w : WIdx) (k : HoldNo) (why : HoldReason),
    s.arrives r w →
    (let x := s.win w
     (x.policy = .hold ∧ x.shape r.line r.lanes ≠ .mix ∧
       (∃ g ∈ s.youngest w, (g.state = .opened ∨ g.state = .broken) ∧ g.owner ≠ r.source) ∧ why = .conflict) ∨
     (x.policy = .hold ∧ x.shape r.line r.lanes ≠ .mix ∧ s.noOpenGroup w ∧ 4 ≤ x.groups.length ∧ why = .queueFull) ∨
     (x.shape r.line r.lanes = .data ∧
       (∃ g ∈ s.youngest w, g.state = .opened ∧ g.owner = r.source ∧
         ∀ e ∈ s.slots, e.ofGroup w g.number = true → e.line ≠ r.line) ∧
       s.areaFull x.area ∧
       (∃ e ∈ s.slots, (s.area x.area).holds e.slot = true ∧
         ∃ y ∈ (s.win e.window).groups, y.number = e.group ∧ y.state.sealedOrLater = true) ∧
       why = .areaWait)) →
    (∀ h ∈ s.holds, h.slot ≠ k) → (∀ j : HoldNo, j < k → ∃ h ∈ s.holds, h.slot = j) →
    ∃ t : RecNo, s.rcd t = none ∧
      exec (.upstreamRequest r) s =
        .next { s.intake t { groupRecord r w with wait := .hold } with
          holds := s.holds ++
            [{ slot := k, source := r.source, tag := r.tag, window := w, line := r.line, lanes := r.lanes,
               data := restrict r.lanes r.data, reason := why,
               deadline := s.timeCount + (s.win w).holdLimit.setWidth 32, pending := false }] }

/-- A data write that finds no open group and room in the queue opens a group with the window's next group number and its
writer as owner; a data write of the owner of an open group goes to a line the group does not hold. Each takes the lowest-
numbered FREE slot of the area, with the group's entry count as its sequence, and is answered DONE (R49, R66, R68). The bytes
of lanes not enabled are kept 0, the model's choice (log 20). -/
def Obligations.WriteTakesASlot : Prop :=
  (∀ (s : State) (r : UpRequest) (w : WIdx) (k : Nat),
      s.arrives r w → (s.win w).shape r.line r.lanes = .data → s.noOpenGroup w → (s.win w).groups.length < 4 →
      s.lowestFree (s.win w).area k → (∀ e ∈ s.slots, e.ofGroup w (s.win w).nextGroup = false) →
      ∃ t : RecNo, s.rcd t = none ∧
        exec (.upstreamRequest r) s =
          .next
            ((({ s.intake t { groupRecord r w with wait := .answer, result := some .done } with
                slots := insertEntry
                  { slot := k, window := w, group := (s.win w).nextGroup, line := r.line, sequence := 0,
                    data := restrict r.lanes r.data, valid := r.lanes, state := .staged } s.slots } : State).setArea (s.win w).area
              { s.area (s.win w).area with used := (s.area (s.win w).area).used + 1 }).setWin w
              { s.win w with
                nextGroup := (s.win w).nextGroup + 1
                groups := (s.win w).groups ++
                  [{ number := (s.win w).nextGroup, owner := r.source, state := .opened, entryCount := 1, markerData := none,
                     sealCause := none, releaseEpoch := none,
                     ageDeadline := if (s.win w).ageLimit = 0 then none else some (s.timeCount + (s.win w).ageLimit.setWidth 32),
                     issued := 0, acked := 0, outstanding := 0, failedLine := none, pendingMarker := none }] })) ∧
  (∀ (s : State) (r : UpRequest) (w : WIdx) (g : Group) (k : Nat),
      s.arrives r w → (s.win w).shape r.line r.lanes = .data → s.youngest w = some g → g.state = .opened → g.owner = r.source →
      (∀ e ∈ s.slots, e.ofGroup w g.number = true → e.line ≠ r.line) → s.lowestFree (s.win w).area k →
      ∃ t : RecNo, s.rcd t = none ∧
        exec (.upstreamRequest r) s =
          .next
            ((({ s.intake t { groupRecord r w with wait := .answer, result := some .done } with
                slots := insertEntry
                  { slot := k, window := w, group := g.number, line := r.line, sequence := g.entryCount,
                    data := restrict r.lanes r.data, valid := r.lanes, state := .staged } s.slots } : State).setArea (s.win w).area
              { s.area (s.win w).area with used := (s.area (s.win w).area).used + 1 }).setWin w
              { s.win w with groups := (s.win w).groups.dropLast ++ [{ g with entryCount := g.entryCount + 1 }] }))

/-- An owner's data write to a line its open group holds coalesces: the enabled lanes take the write's bytes and join the
valid lanes, whether or not the area is full; no slot, sequence or count changes (R48). -/
def Obligations.OwnerWriteCoalesces : Prop :=
  ∀ (s : State) (r : UpRequest) (w : WIdx) (g : Group) (e : Entry),
    s.arrives r w → (s.win w).shape r.line r.lanes = .data → s.youngest w = some g → g.state = .opened → g.owner = r.source →
    s.slotLaw → e ∈ s.slots → e.ofGroup w g.number = true → e.line = r.line →
    ∃ t : RecNo, s.rcd t = none ∧
      exec (.upstreamRequest r) s =
        .next { s.intake t { groupRecord r w with wait := .answer, result := some .done } with
          slots := s.slots.map fun y : Entry =>
            if y = e then
              { e with
                data := Vector.ofFn fun i : Fin 32 => if r.lanes.getLsbD i.val then r.data[i] else e.data[i]
                valid := e.valid ||| r.lanes }
            else y }

/-- An owner's write that meets an area held by OPEN groups only is refused with AREA_FULL, and its open group then breaks
with cause AREA_FULL (R50, R53). Where a slot of the area belongs to a SEALED or later group and every hold slot is in use, the
write is refused with HOLD_FULL, and the group breaks with cause HOLD_FULL (R50, R52). -/
def Obligations.AreaFullBreaksTheGroup : Prop :=
  (∀ (s : State) (r : UpRequest) (w : WIdx) (g : Group),
      s.arrives r w → (s.win w).shape r.line r.lanes = .data → s.youngest w = some g → g.state = .opened → g.owner = r.source →
      (∀ e ∈ s.slots, e.ofGroup w g.number = true → e.line ≠ r.line) → s.areaFull (s.win w).area →
      (∀ e ∈ s.slots, (s.area (s.win w).area).holds e.slot = true →
        ∀ y ∈ (s.win e.window).groups, y.number = e.group → y.state = .opened) →
      ∃ t : RecNo, s.rcd t = none ∧
        exec (.upstreamRequest r) s =
          .next ((((s.intake t { groupRecord r w with wait := .answer, result := some .refused }).post w
            { kind := .writeRefused, window := some w, group := none, source := some r.source, cause := some .areaFull,
              line := some r.line }).bumpRefused w).breakOpen w .areaFull (some r.line))) ∧
  (∀ (s : State) (r : UpRequest) (w : WIdx) (g : Group),
      s.arrives r w → (s.win w).shape r.line r.lanes = .data → s.youngest w = some g → g.state = .opened → g.owner = r.source →
      (∀ e ∈ s.slots, e.ofGroup w g.number = true → e.line ≠ r.line) → s.areaFull (s.win w).area →
      (∃ e ∈ s.slots, (s.area (s.win w).area).holds e.slot = true ∧
        ∃ y ∈ (s.win e.window).groups, y.number = e.group ∧ y.state.sealedOrLater = true) →
      (∀ k : HoldNo, ∃ h ∈ s.holds, h.slot = k) →
      ∃ t : RecNo, s.rcd t = none ∧
        exec (.upstreamRequest r) s =
          .next ((((s.intake t { groupRecord r w with wait := .answer, result := some .refused }).post w
            { kind := .writeRefused, window := some w, group := none, source := some r.source, cause := some .holdFull,
              line := some r.line }).bumpRefused w).breakOpen w .holdFull (some r.line)))

/-- An owner's marker write that meets its BROKEN group is refused with BROKEN, and the group is then discarded with cause
BROKEN_END: two events, both counts, the record gone, the window's held writes marked (R64, R81, R83). -/
def Obligations.MarkerWriteEndsBrokenGroup : Prop :=
  ∀ (s : State) (r : UpRequest) (w : WIdx) (g : Group) (lg : Fin 4) (c : Completion),
    s.arrives r w → (s.win w).shape r.line r.lanes = .marker lg c → s.youngest w = some g → g.state = .broken →
    g.owner = r.source → (∀ e ∈ s.slots, e.ofGroup w g.number = false) → g.pendingMarker = none → g ∉ (s.win w).groups.dropLast →
    ∃ t : RecNo, s.rcd t = none ∧
      (let u := ((s.intake t { groupRecord r w with wait := .answer, result := some .refused }).post w
          { kind := .writeRefused, window := some w, group := none, source := some r.source, cause := some .broken,
            line := some r.line }).post w
          { kind := .groupDiscarded, window := some w, group := some g.number, source := some g.owner, cause := some .brokenEnd,
            line := none }
       exec (.upstreamRequest r) s =
         .next (({ u with
             holds := s.holds.map fun h : Held => if h.window = w then { h with pending := true } else h } : State).setWin w
           { s.win w with
             groups := (s.win w).groups.dropLast
             stats := { (s.win w).stats with
               refused := (s.win w).stats.refused + 1, discarded := (s.win w).stats.discarded + 1 } }))

/-- A break of the window's OPEN group: BROKEN, its entries freed and the used count lowered by their number, the age deadline
absent, GROUP_BROKEN posted, the broken count advanced; where the youngest record is not OPEN, nothing (R56, R80). -/
def Obligations.BreakOfOpenGroup : Prop :=
  ∀ (s : State) (w : WIdx) (c : Cause) (line : Option Line),
    (∀ g ∈ s.youngest w, g.state = .opened →
      let t := s.breakOpen w c line
      let n := s.slots.countP fun e => e.ofGroup w g.number
      s.sameOutsideGroups t ∧ t.transit = s.transit ∧
        t.slots = s.slots.filter (fun e => !e.ofGroup w g.number) ∧
        t.areas = (s.setArea (s.win w).area
          { s.area (s.win w).area with used := (s.area (s.win w).area).used - n }).areas ∧
        t.win w =
          { s.win w with
            groups := (s.win w).groups.dropLast ++ [{ g with state := .broken, entryCount := 0, ageDeadline := none }]
            stats := { (s.win w).stats with broken := (s.win w).stats.broken + 1 } } ∧
        (∀ v : WIdx, v ≠ w → t.win v = s.win v) ∧
        t.eventUnit = (s.post w
          { kind := .groupBroken, window := some w, group := some g.number, source := some g.owner, cause := some c,
            line := line }).eventUnit ∧
        t.holds = s.holds.map fun h : Held =>
          if 0 < n ∧ h.reason = .areaWait ∧ (s.win h.window).joined (s.win w).area = true then { h with pending := true } else h) ∧
    ((∀ g ∈ s.youngest w, g.state ≠ .opened) → s.breakOpen w c line = s)

/-! ### Events (chapter 9) -/

/-- An event offered to the queue is recorded with the next sequence and the pending lost count, which becomes 0, when the
queue has room, and dropped and counted, saturating at 255, when it is full; a window-scoped event is offered when the window
enables its kind and otherwise leaves no trace (R160, R161, R162). -/
def Obligations.EventPosting : Prop :=
  ∀ (s : State) (w : WIdx) (e : EventBody),
    (s.events.length < 32 →
      s.offer e =
        { s with events := s.events ++ [{ seq := s.nextSeq, body := e, lost := s.lost }], nextSeq := s.nextSeq + 1, lost := 0 }) ∧
    (32 ≤ s.events.length → s.offer e = { s with lost := if s.lost = 255 then 255 else s.lost + 1 }) ∧
    ((s.win w).enables.getLsbD e.kind.code = true → s.post w e = s.offer e) ∧
    ((s.win w).enables.getLsbD e.kind.code = false → s.post w e = s)

/-! ### Reads of staged windows (chapter 7) -/

/-- Which groups a read sees, and the snapshot it takes: for each enabled lane the byte of the youngest visible group that
holds it; at the marker line the marker lanes come from the youngest visible group with marker data; a lane no visible group
holds is uncovered (R129 to R131). -/
def Obligations.SnapshotLanes : Prop :=
  (∀ (g : Group) (src : Source),
    g.visible src = true ↔
      (g.state = .released ∨ g.state = .draining ∨ g.state = .marking ∨ g.state = .faulted) ∨
        ((g.state = .opened ∨ g.state = .sealed) ∧ g.owner = src)) ∧
  ∀ (s : State) (w : WIdx) (src : Source) (l : Line) (lanes : Lanes) (i : Fin 32),
    let isMarkerLane := ∃ m ∈ (s.win w).marker, l = (s.win w).markerLine m ∧ (markerLanes m.laneGroup).getLsbD i.val = true
    let holdsLane := fun g : Group => ∃ e ∈ s.entryAt? w g.number l, e.valid.getLsbD i.val = true
    (lanes.getLsbD i.val = false → (s.snapshot w src l lanes)[i] = none) ∧
    (lanes.getLsbD i.val = true → ¬isMarkerLane →
      (∀ older g younger e, (s.win w).groups = older ++ g :: younger → g.visible src = true →
        s.entryAt? w g.number l = some e → e.valid.getLsbD i.val = true →
        (∀ y ∈ younger, y.visible src = true → ¬holdsLane y) → (s.snapshot w src l lanes)[i] = some e.data[i]) ∧
      ((∀ g ∈ (s.win w).groups, g.visible src = true → ¬holdsLane g) → (s.snapshot w src l lanes)[i] = none)) ∧
    (lanes.getLsbD i.val = true → isMarkerLane →
      (∀ older g younger d, (s.win w).groups = older ++ g :: younger → g.visible src = true → g.markerData = some d →
        (∀ y ∈ younger, y.visible src = true → y.markerData = none) →
        ∃ j : Fin 8, i.val % 8 = j.val ∧ (s.snapshot w src l lanes)[i] = some d[j]) ∧
      ((∀ g ∈ (s.win w).groups, g.visible src = true → g.markerData = none) → (s.snapshot w src l lanes)[i] = none))

/-- A read into an ONLINE, QUIESCING or FROZEN window: answered DONE from its snapshot when that covers every enabled lane,
otherwise kept with its snapshot in the forwarder's pending list; no group, entry, hold, count or event changes (R128, R132,
R133). The bytes of lanes not enabled are kept 0, the model's choice (log 20). -/
def Obligations.MergeRead : Prop :=
  ∀ (s : State) (r : UpRequest) (w : WIdx),
    s.classifies r → r.kind = .read → s.inWindow r.line w → (s.win w).state.live = true →
    let p := s.snapshot w r.source r.line r.lanes
    let x : Transit := { acceptedRecord r with path := .merge, window := some w, snapshot := some p }
    ∃ t : RecNo, s.rcd t = none ∧
      ((∀ i : Fin 32, r.lanes.getLsbD i.val = true → (p[i]).isSome = true) →
        exec (.upstreamRequest r) s =
          .next (s.intake t
            { x with
              wait := .answer, result := some .done
              readData := some (Vector.ofFn fun i : Fin 32 => if r.lanes.getLsbD i.val then (p[i]).getD 0#8 else 0#8) })) ∧
      ((∃ i : Fin 32, r.lanes.getLsbD i.val = true ∧ p[i] = none) →
        exec (.upstreamRequest r) s = .next { s.intake t { x with wait := .credit } with fwd := s.fwd ++ [t] })

/-! ### The arbiter and the downstream port (chapters 1 and 6) -/

/-- The grant: none where no credit is FREE or no requester waits, and the drain engine does not wait while 8 credits are HELD
by DRAIN. To the forwarder, alone or when the last grant was DRAIN, the lowest-numbered FREE credit is given for the head of
the pending list, whose request joins the issue list (R13 to R16, R107; log 5). -/
def Obligations.GrantToForwarder : Prop :=
  ∀ s : State,
    ((∀ c, s.credit c ≠ .free) ∨ (s.fwd = [] ∧ (8 ≤ s.drainHeld ∨ ∀ w, s.offers w = none)) → exec .grant s = .next s) ∧
    ∀ (c : CreditNo) (t : RecNo) (rest : List RecNo) (x : Transit),
      s.resetAsserted = false → s.lowestCredit c → s.fwd = t :: rest → s.rcd t = some x →
      (s.lastGrant = .drain ∨ 8 ≤ s.drainHeld ∨ ∀ w, s.offers w = none) →
      exec .grant s =
        .next { s with
          transit := s.transit.set t.val (some { x with wait := .downstream }) t.isLt
          fwd := rest
          credits := s.credits.set c.val (.forwarder (some t)) c.isLt
          issue := s.issue ++ [{ kind := x.kind, source := x.source, tag := c, line := x.line, lanes := x.lanes, data := x.data }]
          lastGrant := .forwarder }

/-- The window the drain engine serves is the first, in index order from the one after the turn pointer and wrapping, that
offers an issuable write (R108). A grant to the drain engine, alone or when the last grant was FORWARDER. For a DRAINING group
the issuable entry of the lowest sequence becomes ISSUED, the outstanding writes advance, the issued count on a first issue
only, and the write carries the valid lanes and bytes of the entry and the group's owner. For a MARKING group the marker is
issued to the window's marker line in the marker lanes (R15, R102, R105, R106, R110). The bytes of lanes that are not enabled are
written as 0, the model's choice (log 20). -/
def Obligations.GrantToDrainEngine : Prop :=
  (∀ (s : State) (w : WIdx),
      let start : WIdx := match s.turn with
        | none => 0
        | some p => p + 1
      s.turnChoice = some w ↔
        ((s.offers w).isSome = true ∧ ∀ v : WIdx, (v - start).val < (w - start).val → s.offers v = none)) ∧
  (∀ (s : State) (c : CreditNo) (w : WIdx) (g : Group),
      s.resetAsserted = false → s.lowestCredit c → (s.fwd = [] ∨ s.lastGrant = .forwarder) → s.drainHeld < 8 →
      s.turnChoice = some w → s.oldest w = some g →
      (∀ e ∈ s.slots, g.state = .draining → g.outstanding < 4 → slotsWf s.slots = true → e.ofGroup w g.number = true →
        e.state ≠ .issued →
        (∀ y ∈ s.slots, y.ofGroup w g.number = true → y.state ≠ .issued → y ≠ e → e.sequence < y.sequence) →
        exec .grant s =
          .next (({ s with
              turn := some w
              slots := s.slots.map fun y : Entry => if y = e then { e with state := .issued } else y
              credits := s.credits.set c.val (.drain (.entry w g.number e.sequence)) c.isLt
              issue := s.issue ++
                [{ kind := .write, source := g.owner, tag := c, line := e.line, lanes := e.valid, data := restrict e.valid e.data }]
              lastGrant := .drain } : State).setOldest w
            { g with
              outstanding := g.outstanding + 1
              issued := if e.state = .staged then g.issued + 1 else g.issued })) ∧
      (∀ m ∈ (s.win w).marker, ∀ d ∈ g.markerData, g.state = .marking → g.outstanding = 0 →
        exec .grant s =
          .next (({ s with
              turn := some w
              credits := s.credits.set c.val (.drain (.marker w g.number)) c.isLt
              issue := s.issue ++
                [{ kind := .write, source := g.owner, tag := c, line := (s.win w).base + m.offset.setWidth 35,
                   lanes := markerLanes m.laneGroup, data := markerLine m.laneGroup d }]
              lastGrant := .drain } : State).setOldest w { g with outstanding := 1 })))

/-- The presented request is issued when the memory controller asserts ready, and leaves the list; nothing is presented from
an empty list or while RESET_N is asserted (R16). -/
def Obligations.IssueTakesTheHead : Prop :=
  ∀ s : State,
    (∀ q rest, s.resetAsserted = false → s.issue = q :: rest →
      exec .downstreamIssue s = .next { s with issue := rest, downSent := some q }) ∧
    (s.resetAsserted = true ∨ s.issue = [] → exec .downstreamIssue s = .next s)

/-- A downstream response for a forwarded request frees its credit and makes the upstream response due: a PASS request takes
the result and, for a READ, the data of the enabled lanes; a MERGE read takes the snapshot's byte in each covered lane and
memory's in the others; FAILED and REFUSED give FAILED with no data and discard the snapshot (R4, R14, R17, R134, R135). The
bytes of lanes not enabled are kept 0, the model's choice (log 20). -/
def Obligations.ForwarderAnswers : Prop :=
  ∀ (s : State) (c : CreditNo) (t : RecNo) (x : Transit) (res : Result) (data : LineData),
    s.resetAsserted = false → s.credit c = .forwarder (some t) → s.rcd t = some x →
    let done := fun y : Transit => exec (.downstreamResponse c res data) s =
      .next { s with
        credits := s.credits.set c.val .free c.isLt
        transit := s.transit.set t.val (some y) t.isLt }
    (res = .done → x.path = .pass → x.kind = .read →
      done { x with
        wait := .answer, result := some .done
        readData := some (Vector.ofFn fun i : Fin 32 => if x.lanes.getLsbD i.val then data[i] else 0#8) }) ∧
    (res = .done → x.path = .pass → x.kind = .write → done { x with wait := .answer, result := some .done, readData := none }) ∧
    (∀ p, res = .done → x.path = .merge → x.snapshot = some p →
      done { x with
        wait := .answer, result := some .done
        readData := some (Vector.ofFn fun i : Fin 32 => if x.lanes.getLsbD i.val then (p[i]).getD data[i] else 0#8) }) ∧
    (res ≠ .done → done { x with wait := .answer, result := some .failed, readData := none, snapshot := none })

/-- DONE for an entry write of the window's DRAINING group: the slot is freed, the counts move, the slot freeing marks the
AREA_WAIT writes of the area; a group left with no entries becomes MARKING when it has marker data (R55, R109, R110, R148). -/
def Obligations.EntryAcknowledged : Prop :=
  ∀ (s : State) (c : CreditNo) (data : LineData) (w : WIdx) (g : Group) (e : Entry),
    s.resetAsserted = false → s.credit c = .drain (.entry w g.number e.sequence) → s.oldest w = some g → g.state = .draining →
    (∀ y ∈ s.slots, y.ofGroup w g.number = true → y.sequence = e.sequence → y = e) →
    slotsWf s.slots = true → e ∈ s.slots → e.ofGroup w g.number = true →
    (2 ≤ g.entryCount ∨ (g.entryCount = 1 ∧ g.markerData.isSome = true)) →
    exec (.downstreamResponse c .done data) s =
      .next (((({ s with
          credits := s.credits.set c.val .free c.isLt
          slots := s.slots.filter fun y => y != e } : State).lowerUsed (s.win w).area 1).setOldest w
        { g with
          state := if g.entryCount = 1 then .marking else .draining
          entryCount := g.entryCount - 1, acked := g.acked + 1, outstanding := g.outstanding - 1 }).areaTrigger (s.win w).area)

/-- Publication, at the marker's DONE or, of a group without marker data, at its last entry's DONE: GROUP_PUBLISHED posted and
counted, a LATE marker answered DONE, the record freed, the window's held writes marked. A next record that is RELEASED and holds
entries is taken by the drain engine in the same taking; a QUIESCING window left with no group becomes OFFLINE and posts
WINDOW_OFFLINE. The last entry's DONE frees its slot too, which marks the AREA_WAIT writes of the area (R33, R55, R103, R109 to R112,
R148). -/
def Obligations.MarkerAcknowledgedPublishes : Prop :=
  ∀ (s : State) (c : CreditNo) (data : LineData) (w : WIdx) (g : Group) (left : List Group),
    s.resetAsserted = false → s.softReset = false → s.oldest w = some g →
    ((s.win w).state = .online ∨ (s.win w).state = .quiescing) →
    (let rest := (s.win w).groups.tail
     (rest = [] ∧ left = []) ∨ (∃ y ys, rest = y :: ys ∧ y.state ≠ .released ∧ left = y :: ys) ∨
       (∃ y ys, rest = y :: ys ∧ y.state = .released ∧ y.entryCount ≠ 0 ∧ s.hasOrphan w = false ∧
         left = { y with state := .draining, issued := 0, acked := 0, outstanding := 0, failedLine := none } :: ys)) →
    let a := (s.win w).area
    let ends := (s.win w).state = .quiescing ∧ left = []
    let published := fun (t : State) (marks : Held → Prop) [DecidablePred marks] =>
      t.win w =
          { s.win w with
            state := if ends then .offline else (s.win w).state
            quiesceMode := if ends then none else (s.win w).quiesceMode
            groups := left
            stats := { (s.win w).stats with published := (s.win w).stats.published + 1 } } ∧
        (∀ v : WIdx, v ≠ w → t.win v = s.win v) ∧
        t.eventUnit =
          (let u := s.post w
            { kind := .groupPublished, window := some w, group := some g.number, source := some g.owner, cause := none, line := none }
           if ends then
             u.post w { kind := .windowOffline, window := some w, group := none, source := none, cause := none, line := none }
           else u).eventUnit ∧
        t.credits = s.credits.set c.val .free c.isLt ∧
        t.holds = (s.holds.map fun h : Held => if marks h then { h with pending := true } else h) ∧
        (g.pendingMarker = none → t.transit = s.transit) ∧
        (∀ src tag u, g.pendingMarker = some (src, tag) → s.groupRcd? src tag = some u →
          t.transit = (s.answerRcd u .done none).transit) ∧
        ({ s with credits := t.credits } : State).sameOutsideGroups t
    (∀ m ∈ (s.win w).marker, s.credit c = .drain (.marker w g.number) → g.state = .marking →
      ∃ t : State, exec (.downstreamResponse c .done data) s = .next t ∧ t.slots = s.slots ∧ t.areas = s.areas ∧
        published t fun h => h.window = w) ∧
    (∀ e ∈ s.slots, s.credit c = .drain (.entry w g.number e.sequence) → g.state = .draining → g.entryCount = 1 →
      g.markerData = none → (∀ y ∈ s.slots, y.ofGroup w g.number = true → y.sequence = e.sequence → y = e) →
      slotsWf s.slots = true → e.ofGroup w g.number = true →
      ∃ t : State, exec (.downstreamResponse c .done data) s = .next t ∧ t.slots = s.slots.filter (fun y => y != e) ∧
        t.areas = (s.setArea a { s.area a with used := (s.area a).used - 1 }).areas ∧
        published t fun h => h.window = w ∨ (h.reason = .areaWait ∧ (s.win h.window).joined a = true))

/-- A drain failure, of an entry write or of the marker write, in an ONLINE or QUIESCING window: the group is FAULTED with the entry's
line or the marker line, the window FROZEN with frozen-from recorded; its held writes are refused with WINDOW_STATE, oldest first, and
answered; an OPEN group breaks with cause FREEZE, its entries freed, and the other records stay; the events are GROUP_FAULTED, the
WRITE_REFUSED, GROUP_BROKEN, in this order (R35, R56, R80, R114, R115, R148, R153). The responses of a FAULTED group's other writes free
or fail their entries, and nothing else of the window changes (R35, R109, R116). During a soft reset the group is abandoned at once, and
the window returns to QUIESCING, here to OFFLINE since no group is left (R33, R37, R121, R126). -/
def Obligations.DrainFailureFreezes : Prop :=
  (∀ (s : State) (c : CreditNo) (data : LineData) (res : Result) (w : WIdx) (g : Group) (from_ : FrozenFrom),
    s.resetAsserted = false → s.softReset = false → res ≠ .done → s.oldest w = some g → s.tableLaw → s.oneRecordEach →
    ((s.win w).state = .online ∧ from_ = .online ∨ (s.win w).state = .quiescing ∧ from_ = .quiescing) →
    let a := (s.win w).area
    let rest := (s.win w).groups.tail
    let held := s.holds.filter fun h : Held => h.window == w
    let opened := rest.filter fun y : Group => y.state == .opened
    let ofOpened := fun e : Entry => opened.any fun y : Group => e.ofGroup w y.number
    let frozen := fun (t : State) (es : List Entry) (f : Group) (line : Line) =>
      t.win w =
          { s.win w with
            state := .frozen, frozenFrom := some from_, quiesceMode := none
            groups := f :: rest.map fun y : Group =>
              if y.state = .opened then { y with state := .broken, entryCount := 0, ageDeadline := none } else y
            stats := { (s.win w).stats with
              refused := (s.win w).stats.refused + BitVec.ofNat 32 held.length
              broken := (s.win w).stats.broken + BitVec.ofNat 32 opened.length } } ∧
        (∀ v : WIdx, v ≠ w → t.win v = s.win v) ∧
        t.slots = es.filter (fun e => !ofOpened e) ∧
        t.areas = (s.setArea a { s.area a with used := (s.area a).used - s.slots.countP ofOpened }).areas ∧
        t.holds = ((s.holds.filter fun h : Held => h.window != w).map fun h : Held =>
          if 0 < s.slots.countP ofOpened ∧ h.reason = .areaWait ∧ (s.win h.window).joined a = true then { h with pending := true }
          else h) ∧
        (∀ u, t.rcd u = (s.rcd u).map fun r =>
          if r.path = .group ∧ r.result = none ∧ ∃ h ∈ held, h.source = r.source ∧ h.tag = r.tag then
            { r with wait := .answer, result := some .refused, readData := none }
          else r) ∧
        t.eventUnit =
          (([{ kind := .groupFaulted, window := some w, group := some f.number, source := some f.owner, cause := none,
               line := some line }] ++
            (held.map fun h => { kind := .writeRefused, window := some w, group := none, source := some h.source,
                                 cause := some .windowState, line := some h.line }) ++
            (opened.map fun y => { kind := .groupBroken, window := some w, group := some y.number, source := some y.owner,
                                   cause := some .freeze, line := none }) : List EventBody).foldl (fun u e => u.post w e)
            s).eventUnit ∧
        t.credits = s.credits.set c.val .free c.isLt ∧ ({ s with credits := t.credits } : State).sameOutsideGroups t
    (∀ e ∈ s.slots, s.credit c = .drain (.entry w g.number e.sequence) → g.state = .draining →
      (∀ y ∈ s.slots, y.ofGroup w g.number = true → y.sequence = e.sequence → y = e) → slotsWf s.slots = true →
      e.ofGroup w g.number = true →
      ∃ t : State, exec (.downstreamResponse c res data) s = .next t ∧
        frozen t (s.slots.map fun y : Entry => if y = e then { e with state := .failed } else y)
          { g with state := .faulted, failedLine := some e.line, outstanding := g.outstanding - 1 } e.line) ∧
    (∀ m ∈ (s.win w).marker, s.credit c = .drain (.marker w g.number) → g.state = .marking →
      let line : Line := (s.win w).base + m.offset.setWidth 35
      ∃ t : State, exec (.downstreamResponse c res data) s = .next t ∧
        frozen t s.slots { g with state := .faulted, failedLine := some line, outstanding := 0 } line)) ∧
  (∀ (s : State) (c : CreditNo) (data : LineData) (res : Result) (w : WIdx) (g : Group) (e : Entry),
    s.resetAsserted = false → s.credit c = .drain (.entry w g.number e.sequence) → s.oldest w = some g → g.state = .faulted →
    (∀ y ∈ s.slots, y.ofGroup w g.number = true → y.sequence = e.sequence → y = e) → slotsWf s.slots = true → e ∈ s.slots →
    e.ofGroup w g.number = true →
    (res = .done →
      exec (.downstreamResponse c res data) s =
        .next (((({ s with
            credits := s.credits.set c.val .free c.isLt
            slots := s.slots.filter fun y => y != e } : State).lowerUsed (s.win w).area 1).setOldest w
          { g with entryCount := g.entryCount - 1, acked := g.acked + 1, outstanding := g.outstanding - 1 }).areaTrigger
          (s.win w).area)) ∧
    (res ≠ .done →
      exec (.downstreamResponse c res data) s =
        .next (({ s with
            credits := s.credits.set c.val .free c.isLt
            slots := s.slots.map fun y : Entry => if y = e then { e with state := .failed } else y } : State).setOldest w
          { g with outstanding := g.outstanding - 1 }))) ∧
  (∀ (s : State) (c : CreditNo) (data : LineData) (res : Result) (w : WIdx) (g : Group) (m : MarkerConfig),
    s.resetAsserted = false → s.softReset = true → res ≠ .done → s.tableLaw → (s.win w).state = .quiescing →
    (s.win w).groups = [g] → g.state = .marking → (s.win w).marker = some m → s.credit c = .drain (.marker w g.number) →
    (∃ v : WIdx, v ≠ w ∧ (s.win v).groups ≠ []) → (∀ e ∈ s.slots, e.ofGroup w g.number = false) → g.pendingMarker = none →
    (∀ d : CreditNo, d ≠ c → s.credit d ≠ .drain (.marker w g.number) ∧ ∀ q, s.credit d ≠ .drain (.entry w g.number q)) →
    exec (.downstreamResponse c res data) s =
      .next (({ (((s.post w
              { kind := .groupFaulted, window := some w, group := some g.number, source := some g.owner, cause := none,
                line := some ((s.win w).base + m.offset.setWidth 35) }).post w
              { kind := .groupDiscarded, window := some w, group := some g.number, source := some g.owner, cause := some .abandon,
                line := none }).post w
              { kind := .windowOffline, window := some w, group := none, source := none, cause := none, line := none }) with
            credits := s.credits.set c.val .free c.isLt } : State).setWin w
        { s.win w with
          state := .offline, quiesceMode := none, groups := []
          stats := { (s.win w).stats with discarded := (s.win w).stats.discarded + 1 } }))

/-- Responses for writes and reads that nobody waits for: a tag whose credit is FREE, and every response while RESET_N is
asserted, is absorbed; a credit with no client becomes FREE; the response of an orphaned write frees its credit and is
discarded, and when it was the window's last, the drain engine takes the window's oldest group if it is RELEASED and the
window is not FROZEN (R17, R19, R103, R122). -/
def Obligations.ResponsesWithoutClient : Prop :=
  ∀ (s : State) (c : CreditNo) (res : Result) (data : LineData),
    let cmd := exec (.downstreamResponse c res data) s
    let freed : State := { s with credits := s.credits.set c.val .free c.isLt }
    (s.resetAsserted = true ∨ s.credit c = .free → cmd = .next s) ∧
    (s.resetAsserted = false → s.credit c = .forwarder none → cmd = .next freed) ∧
    ∀ w : WIdx, s.resetAsserted = false → s.softReset = false → s.credit c = .drain (.orphan w) →
      ((∃ d : CreditNo, d ≠ c ∧ s.credit d = .drain (.orphan w)) → cmd = .next freed) ∧
      (∀ g ∈ s.oldest w, (∀ d : CreditNo, d ≠ c → s.credit d ≠ .drain (.orphan w)) → g.state = .released → g.entryCount ≠ 0 →
        (s.win w).state ≠ .frozen →
        cmd = .next (freed.setOldest w
          { g with state := .draining, issued := 0, acked := 0, outstanding := 0, failedLine := none }))

/-! ### Re-evaluation and timers (chapters 4 and 8, R182) -/

/-- A re-evaluation pass takes every write that is pending at its start, oldest first; a write that a change made in the pass concerns
is left pending for a further pass; with no pending write it changes nothing (R149, R150). Each write taken leaves the pending set. It is
held again in its own slot and place with its deadline (a conflict that still stands or a full queue under HOLD, an exhausted area with
a SEALED or later group); refused (under REFUSE, by its own BROKEN group, by an area of OPEN groups only, which breaks its group);
staged into the lowest-numbered FREE slot of the area, in its own OPEN group or in one it opens, and answered DONE; or, a marker write,
it seals its OPEN group, here in MARKER_EPOCH mode, and marks the window's other held writes (R50, R53, R64, R66 to R70, R72, R73, R81,
R148). The bytes of lanes not enabled are kept 0, the model's choice (log 20). -/
def Obligations.PassTakesPendingWrites : Prop :=
  ∀ s : State, s.resetAsserted = false →
    ((∀ h ∈ s.holds, h.pending = false) → exec .reevaluationPass s = .next s) ∧
    exec .reevaluationPass s = .next (((s.holds.filter fun h => h.pending).map Held.slot).foldl State.reevaluate s) ∧
    (∀ k : HoldNo, (∀ h ∈ s.holds, h.slot ≠ k) → s.reevaluate k = s) ∧
    ∀ h ∈ s.holds, (s.holds.map Held.slot).Nodup → (s.win h.window).state = .online →
      let x := s.win h.window
      let sh := x.shape h.line h.lanes
      let again := fun why : HoldReason =>
        s.reevaluate h.slot =
          { s with holds := s.holds.map fun y : Held => if y.slot = h.slot then { h with pending := false, reason := why } else y }
      let gone : State := { s with holds := s.holds.filter fun y : Held => y.slot != h.slot }
      let conflict := ∃ g ∈ s.youngest h.window, (g.state = .opened ∨ g.state = .broken) ∧ g.owner ≠ h.source
      let full := s.noOpenGroup h.window ∧ 4 ≤ x.groups.length
      let newLine := fun g : Group => ∀ e ∈ s.slots, e.ofGroup h.window g.number = true → e.line ≠ h.line
      let owned := fun g : Group => g.state = .opened ∧ g.owner = h.source
      let willFree := ∃ e ∈ s.slots, (s.area x.area).holds e.slot = true ∧
        ∃ y ∈ (s.win e.window).groups, y.number = e.group ∧ y.state.sealedOrLater = true
      let staged := fun (k : Nat) (n : Byte) (q : Nat) =>
        ({ gone with
            slots := insertEntry
              { slot := k, window := h.window, group := n, line := h.line, sequence := q, data := restrict h.lanes h.data,
                valid := h.lanes, state := .staged } s.slots } : State).setArea x.area
          { s.area x.area with used := (s.area x.area).used + 1 }
      (x.policy = .hold → sh ≠ .mix → conflict → again .conflict) ∧
      (x.policy = .hold → sh ≠ .mix → full → again .queueFull) ∧
      (∀ g ∈ s.youngest h.window, owned g → sh = .data → newLine g → s.areaFull x.area → willFree → again .areaWait) ∧
      ∀ u : RecNo, s.groupRcd? h.source h.tag = some u →
        let refused := fun c : Cause =>
          ((gone.answerRcd u .refused none).post h.window
            { kind := .writeRefused, window := some h.window, group := none, source := some h.source, cause := some c,
              line := some h.line }).bumpRefused h.window
        (x.policy = .refuse → sh ≠ .mix → conflict → s.reevaluate h.slot = refused .conflict) ∧
        (x.policy = .refuse → sh ≠ .mix → full → s.reevaluate h.slot = refused .queueFull) ∧
        (∀ g ∈ s.youngest h.window, g.state = .broken → g.owner = h.source → sh = .data → s.reevaluate h.slot = refused .broken) ∧
        (∀ g ∈ s.youngest h.window, owned g → sh = .data → newLine g → s.areaFull x.area → ¬willFree →
          s.reevaluate h.slot = (refused .areaFull).breakOpen h.window .areaFull (some h.line)) ∧
        (∀ k : Nat, s.lowestFree x.area k →
          (∀ g ∈ s.youngest h.window, owned g → sh = .data → newLine g →
            s.reevaluate h.slot =
              (((staged k g.number g.entryCount).setYoungest h.window { g with entryCount := g.entryCount + 1 }).answerRcd u .done
                none)) ∧
          (sh = .data → s.noOpenGroup h.window → x.groups.length < 4 →
            (∀ e ∈ s.slots, e.ofGroup h.window x.nextGroup = false) →
            s.reevaluate h.slot =
              (((staged k x.nextGroup 0).setWin h.window
                { x with
                  nextGroup := x.nextGroup + 1
                  groups := x.groups ++
                    [{ number := x.nextGroup, owner := h.source, state := .opened, entryCount := 1, markerData := none,
                       sealCause := none, releaseEpoch := none,
                       ageDeadline := if x.ageLimit = 0 then none else some (s.timeCount + x.ageLimit.setWidth 32),
                       issued := 0, acked := 0, outstanding := 0, failedLine := none, pendingMarker := none }] }).answerRcd u .done
                none))) ∧
        (∀ g ∈ s.youngest h.window, ∀ (lg : Fin 4) (c : Completion), owned g → sh = .marker lg c → x.trigger = .markerEpoch →
          s.reevaluate h.slot =
            ((({ gone with
                holds := gone.holds.map fun y : Held => if y.window = h.window then { y with pending := true } else y } : State).modRcd
              u (match c with
                | .early => fun r => { r with wait := .answer, result := some .done, readData := none }
                | .late => fun r => { r with wait := .publication })).setYoungest h.window
              { g with
                state := .sealed, sealCause := some .marker, ageDeadline := none
                markerData := some (Vector.ofFn fun j : Fin 8 => h.data[8 * lg.val + j.val])
                pendingMarker := match c with
                  | .early => none
                  | .late => some (h.source, h.tag) }))

/-- A hold whose deadline tick is reached: answered REFUSED, its slot freed, HOLD_EXPIRED posted, the refused count advanced;
an AREA_WAIT write whose source still owns the window's OPEN group then breaks that group (R151, R152). The expiry is a
command of its own, taken when its tick is reached (log 16). -/
def Obligations.HoldExpires : Prop :=
  ∀ (s : State) (h : Held) (u : RecNo),
    s.resetAsserted = false → (s.holds.map Held.slot).Nodup → h ∈ s.holds → h.deadline = s.timeCount →
    s.groupRcd? h.source h.tag = some u →
    let expired := (({ s with holds := s.holds.filter fun y : Held => y.slot != h.slot }.answerRcd u .refused none).post h.window
      { kind := .holdExpired, window := some h.window, group := none, source := some h.source, cause := none,
        line := some h.line }).bumpRefused h.window
    let ownsOpen := ∃ g ∈ s.youngest h.window, g.state = .opened ∧ g.owner = h.source
    ((h.reason ≠ .areaWait ∨ ¬ownsOpen) → exec (.holdExpiry h.slot) s = .next expired) ∧
      (h.reason = .areaWait → ownsOpen →
        exec (.holdExpiry h.slot) s = .next (expired.breakOpen h.window .areaWaitExpired (some h.line)))

/-- An OPEN group whose deadline tick is reached. Under SEAL it is sealed with cause AGE and GROUP_AGED is posted; in MARKER
mode it is released besides, in the other modes it stays SEALED. Under BREAK it breaks with cause AGE (R76, R78). A US_TICK that reaches
the deadline of one window's group takes that expiry within itself (R180; log 27), and AGE_EXPIRY is the expiry alone (log 16). -/
def Obligations.AgeExpires : Prop :=
  ∀ (s : State) (w : WIdx) (g : Group),
    s.resetAsserted = false → s.youngest w = some g → g.state = .opened →
    (g.ageDeadline = some s.timeCount →
      let aged := (({ s with
          holds := s.holds.map fun h : Held => if h.window = w then { h with pending := true } else h } : State).setYoungest w
        { g with
          state := .sealed, sealCause := some .age, markerData := none, ageDeadline := none, pendingMarker := none }).post w
        { kind := .groupAged, window := some w, group := some g.number, source := some g.owner, cause := none, line := none }
      ((s.win w).ageAction = .seal → (s.win w).trigger ≠ .marker → exec (.ageExpiry w) s = .next aged) ∧
      ((s.win w).ageAction = .seal → (s.win w).trigger = .marker → exec (.ageExpiry w) s = .next (aged.releaseAll w none)) ∧
      ((s.win w).ageAction = .break_ → exec (.ageExpiry w) s = .next (s.breakOpen w .age none))) ∧
    (g.ageDeadline = some (s.timeCount + 1) →
      (∀ v : WIdx, v ≠ w → ∀ y ∈ s.youngest v, y.state = .opened → ∀ d ∈ y.ageDeadline,
        ∃ n : Nat, 2 ≤ n ∧ n ≤ 2 ^ 31 ∧ d = s.timeCount + BitVec.ofNat 32 n) →
      exec .usTick s = exec (.ageExpiry w) { s with timeCount := s.timeCount + 1 })

/-- One µs tick advances the time count by one, wrapping; where it reaches no age deadline that is all it does; it stands still while
RESET_N is asserted (R182). An expiry whose deadline is not reached, or that finds no write or no OPEN group with a deadline, changes
nothing (log 5, log 16). -/
def Obligations.TimersFollowTheTimeCount : Prop :=
  ∀ s : State,
    (s.resetAsserted = false →
      (∀ w : WIdx, ∀ g ∈ s.youngest w, g.state = .opened → ∀ d ∈ g.ageDeadline,
        ∃ n : Nat, 2 ≤ n ∧ n ≤ 2 ^ 31 ∧ d = s.timeCount + BitVec.ofNat 32 n) →
      exec .usTick s = .next { s with timeCount := s.timeCount + 1 }) ∧
    (s.resetAsserted = true → exec .usTick s = .next s) ∧
    (∀ k : HoldNo, (∀ h ∈ s.holds, h.slot = k → ∃ n : Nat, 1 ≤ n ∧ n ≤ 2 ^ 31 ∧ h.deadline = s.timeCount + BitVec.ofNat 32 n) →
      exec (.holdExpiry k) s = .next s) ∧
    (∀ w : WIdx, (∀ g ∈ s.youngest w, g.state = .opened → ∀ d ∈ g.ageDeadline,
        ∃ n : Nat, 1 ≤ n ∧ n ≤ 2 ^ 31 ∧ d = s.timeCount + BitVec.ofNat 32 n) →
      exec (.ageExpiry w) s = .next s)

/-! ### Epoch events (chapter 5) -/

/-- The epoch unit samples EPOCH_IN level by level (R88; the levels are the command's operand, log 10). A change from low to high against
the last sampled level advances the epoch counter by one, wrapping, and its event is on its way to every window, behind earlier ones (R88
to R90); any other sample leaves only its level; a list of levels is taken one after another. While RESET_N is asserted nothing is
sampled; with EPOCH_IN high at its release no sample that is high counts until one is low, and low, then high counts once (R88). A
delivery at one window takes the oldest event on its way there, and a list of windows is taken one after another, so that any
other taking may come between two windows (R90; how the commands spell this, and that a step on an empty queue delivers, is log 9). At a
window that is UNUSED, OFFLINE or in MARKER mode it has no effect (R90, R91). At an ONLINE window with one group: in MARKER_EPOCH mode a
SEALED group is released with the event's epoch number, in EPOCH mode an OPEN one is sealed with cause EPOCH first, and the drain engine
takes it in the same taking (R92, R94, R103); in EPOCH mode a BROKEN group is discarded with cause EPOCH_BROKEN (R93). Delivered to all
windows, an edge leaves alone the windows that are UNUSED, OFFLINE or in MARKER mode, the ports, the credits, the turn pointer and the
management port. -/
def Obligations.EpochEvent : Prop :=
  (∀ s : State, s.resetAsserted = false →
      (∀ high : Bool,
        exec (.epochEvent ⟨[high], []⟩) s =
          .next
            (if s.epochLevel = false ∧ high = true then
              { s with
                epochCounter := s.epochCounter + 1
                epochLevel := true
                epochDue := s.epochDue.map fun l => l ++ [s.epochCounter + 1] }
            else { s with epochLevel := high })) ∧
      (∀ (ls : List Bool) (high : Bool) (t : State), exec (.epochEvent ⟨ls, []⟩) s = .next t →
        exec (.epochEvent ⟨ls ++ [high], []⟩) s = exec (.epochEvent ⟨[high], []⟩) t) ∧
      (∀ w : WIdx, s.due w = [] → exec (.epochEvent ⟨[], [w]⟩) s = .next s) ∧
      (∀ (ls : List Bool) (ws : List WIdx) (w : WIdx) (t : State), exec (.epochEvent ⟨ls, ws⟩) s = .next t →
        exec (.epochEvent ⟨ls, ws ++ [w]⟩) s = exec (.epochEvent ⟨[], [w]⟩) t) ∧
      (∀ w : WIdx, s.pending = [] → s.due w ≠ [] → (∀ v : WIdx, v < w → s.due v = []) →
        step s = exec (.epochEvent ⟨[], [w]⟩) s) ∧
      (∀ ws : List WIdx, ws.Nodup → (∀ w : WIdx, w ∈ ws ∧ s.due w = []) →
        ∃ t : State, exec (.epochEvent ⟨[false, true], ws⟩) s = .next t ∧ (∀ w : WIdx, t.due w = []) ∧
          (∀ w : WIdx, (s.win w).state.live = false ∨ (s.win w).trigger = .marker → t.win w = s.win w) ∧
          ({ s with epochCounter := s.epochCounter + 1, epochLevel := true, epochDue := t.epochDue } : State).sameOutsideGroups t)) ∧
  (∀ s : State, s.resetAsserted = true →
      (∀ d : EpochDelivery, exec (.epochEvent d) s = .next s) ∧
      ∀ (high : Bool) (t : State), exec (.powerOnResetRelease high) s = .next t →
        (high = true → ∀ n : Nat, exec (.epochEvent ⟨List.replicate n true, []⟩) t = .next t) ∧
        ∃ u : State, exec (.epochEvent ⟨[false, true], []⟩) t = .next u ∧
          u.epochCounter = t.epochCounter + 1 ∧ ∀ w : WIdx, u.due w = t.due w ++ [t.epochCounter + 1]) ∧
  (∀ (s : State) (w : WIdx) (e : BitVec 16) (later : List (BitVec 16)), s.resetAsserted = false → s.due w = e :: later →
      let u : State := { s with epochDue := s.epochDue.set w.val later w.isLt }
      ((s.win w).state.live = false ∨ (s.win w).trigger = .marker → exec (.epochEvent ⟨[], [w]⟩) s = .next u) ∧
      ∀ g : Group, (s.win w).state = .online → (s.win w).groups = [g] → (g.state ≠ .broken → g.entryCount ≠ 0) →
        s.hasOrphan w = false →
        ((s.win w).trigger = .markerEpoch → g.state = .sealed →
          exec (.epochEvent ⟨[], [w]⟩) s =
            .next (u.setWin w
              { s.win w with
                groups :=
                  [{ g with
                     state := .draining, releaseEpoch := some e
                     issued := 0, acked := 0, outstanding := 0, failedLine := none }] })) ∧
        ((s.win w).trigger = .epoch → g.state = .opened →
          exec (.epochEvent ⟨[], [w]⟩) s =
            .next (({ u with
                holds := s.holds.map fun h : Held => if h.window = w then { h with pending := true } else h } : State).setWin w
              { s.win w with
                groups :=
                  [{ g with
                     state := .draining, sealCause := some .epoch, markerData := none, ageDeadline := none, pendingMarker := none
                     releaseEpoch := some e
                     issued := 0, acked := 0, outstanding := 0, failedLine := none }] })) ∧
        ((s.win w).trigger = .epoch → g.state = .broken → (∀ e ∈ s.slots, e.ofGroup w g.number = false) → g.pendingMarker = none →
          exec (.epochEvent ⟨[], [w]⟩) s =
            .next (({ u.post w
                  { kind := .groupDiscarded, window := some w, group := some g.number, source := some g.owner,
                    cause := some .epochBroken, line := none } with
                holds := s.holds.map fun h : Held => if h.window = w then { h with pending := true } else h } : State).setWin w
              { s.win w with
                groups := []
                stats := { (s.win w).stats with discarded := (s.win w).stats.discarded + 1 } })))

/-! ### Resets -/

/-- At the assertion of LINK_RST_N every transit record, the pending list and the hold list are dropped; FORWARDER credits
lose their client and DRAIN credits stay; LINK_RESET is posted, before any discard; every OPEN or BROKEN group is discarded and counted,
its slots freed, and every other group is kept without its pending marker response; window states and configurations, the issue list,
the turn pointer, the counters and the port are unchanged (R18, R40, R59, R86, R125, R156, R163, R167). The order among windows is an
operand (log 8) and makes no difference here. -/
def Obligations.LinkResetDropsRequests : Prop :=
  ∀ (s : State) (order : List WIdx), s.resetAsserted = false → s.linkAsserted = false → s.tableLaw →
    let ends := fun g : Group => g.state == .opened || g.state == .broken
    let freed := fun e : Entry => (s.win e.window).groups.any fun g : Group => ends g && e.ofGroup e.window g.number
    ∃ t : State, exec (.linkReset order) s = .next t ∧ t.linkAsserted = true ∧ t.upReady = false ∧
      (∀ u, t.rcd u = none) ∧ t.fwd = [] ∧ t.holds = [] ∧
      (∀ c, t.credit c = match s.credit c with
        | .free => .free
        | .forwarder _ => .forwarder none
        | .drain cl => .drain cl) ∧
      (∃ discards, t.events = (s.offer
        { kind := .linkReset, window := none, group := none, source := none, cause := none, line := none }).events ++ discards) ∧
      (∀ w, t.win w =
        { s.win w with
          groups := ((s.win w).groups.filter fun g => !ends g).map fun g : Group => { g with pendingMarker := none }
          stats := { (s.win w).stats with
            discarded := (s.win w).stats.discarded + BitVec.ofNat 32 ((s.win w).groups.countP ends) } }) ∧
      t.slots = s.slots.filter (fun e => !freed e) ∧
      (∀ a, t.area a =
        { s.area a with used := (s.area a).used - s.slots.countP fun e => freed e && (s.win e.window).area == a }) ∧
      ({ s with linkAsserted := true, fwd := [], credits := t.credits } : State).sameOutsideGroups t

/-- Power-on reset: every record takes its value after power-on reset and RESET_N is asserted; the commands waiting, the level
of LINK_RST_N, the last sampled level of EPOCH_IN and the request on the channel stay (R19; log 21). -/
def Obligations.PowerOnResetClears : Prop :=
  ∀ s : State,
    exec .powerOnReset s =
      .next { State.reset with
        pending := s.pending, resetAsserted := true, linkAsserted := s.linkAsserted, epochLevel := s.epochLevel,
        upWaiting := s.upWaiting }

/-- The release of a reset line. LINK_RST_N: the upstream port may assert ready again, nothing else changes (R18). RESET_N:
the level of EPOCH_IN then present becomes the last sampled one without an epoch event, the time count starts from 0, the
decoder is in IDLE (R88, R182, R188); released already, nothing (log 21). -/
def Obligations.ResetReleases : Prop :=
  ∀ (s : State) (high : Bool),
    exec .linkResetRelease s = .next { s with linkAsserted := false } ∧
    (s.resetAsserted = true →
      exec (.powerOnResetRelease high) s =
        .next { s with resetAsserted := false, epochLevel := high, timeCount := 0, frame := .idle }) ∧
    (s.resetAsserted = false → exec (.powerOnResetRelease high) s = .next s)

/-! ### The management port (chapter 10) -/

/-- The serial line. MDO is at high impedance in IDLE and while RESET_N is asserted, and carries the fill byte FFh in COMMAND, OPERANDS
and TRAILER and the byte of the result buffer that comes next in RESULT, most significant bit first (R169, R170). A fall of MSEL_N
starts a transaction in COMMAND. Edges of MCLK may be cut anywhere: a run of them is its parts one after another, and a rise after
them is the rise alone at what they leave (log 14). Those that do not complete a byte only collect bits; in RESULT they clock the
buffer out, the whole bytes reaching the master, and past its last byte the decoder is in TRAILER and the master reads the fill byte.
A rise returns the decoder to IDLE from any state: what was received of a frame that is not complete is discarded and nothing is taken,
the result bytes not clocked out are lost, and the command's effects stand (R170 to R172; log 22). In IDLE nothing happens, nor while
RESET_N is asserted (R169, R188). -/
def Obligations.TransactionFraming : Prop :=
  ∀ (s : State) (mdi : List Bool),
    let run := exec (.transactionEndsEarly ⟨mdi, false⟩) s
    let n := mdi.length
    (s.resetAsserted = true ∨ s.frame = .idle → s.mdoByte = none) ∧
    (s.resetAsserted = false →
      (s.frame = .command ∨ s.frame = .operands ∨ s.frame = .trailer → s.mdoByte = some 0xFF#8) ∧
      (s.frame = .result → s.mdoByte = s.buffer.head?)) ∧
    (s.mdoByte = none → s.mdo = none) ∧
    (∀ b ∈ s.mdoByte, s.mdo = some (b.getLsbD (7 - s.shift.length))) ∧
    (s.resetAsserted = true → exec .transactionStart s = .next s ∧ ∀ r, exec (.transactionEndsEarly r) s = .next s) ∧
    (s.frame = .idle → ∀ r, exec (.transactionEndsEarly r) s = .next s) ∧
    (s.resetAsserted = false →
      exec .transactionStart s =
        .next { s with frame := .command, shift := [], received := [], buffer := [], masterRead := [] }) ∧
    (∀ (more : List Bool) (rise : Bool) (t : State), run = .next t →
      exec (.transactionEndsEarly ⟨mdi ++ more, rise⟩) s = exec (.transactionEndsEarly ⟨more, rise⟩) t) ∧
    (s.resetAsserted = false → s.frame ≠ .idle →
      exec (.transactionEndsEarly ⟨[], true⟩) s = .next { s with frame := .idle, shift := [], received := [], buffer := [] } ∧
      (s.frame = .command ∨ s.frame = .operands → s.shift.length + n < 8 → run = .next { s with shift := s.shift ++ mdi }) ∧
      (s.frame = .result → s.shift = [] → n < 8 * s.buffer.length →
        run = .next { s with
          masterRead := s.masterRead ++ s.buffer.take (n / 8), buffer := s.buffer.drop (n / 8),
          shift := (bitsOf (s.buffer[n / 8]?.getD 0#8)).take (n % 8) }) ∧
      (s.frame = .result → s.shift = [] → s.buffer ≠ [] → 8 * s.buffer.length ≤ n →
        run = .next { s with
          frame := .trailer, masterRead := s.masterRead ++ s.buffer ++ List.replicate (n / 8 - s.buffer.length) 0xFF#8, buffer := [],
          shift := List.replicate (n % 8) true }) ∧
      (s.frame = .trailer → s.shift = [] → s.buffer = [] →
        run = .next { s with
          masterRead := s.masterRead ++ List.replicate (n / 8) 0xFF#8, shift := List.replicate (n % 8) true }))

/-- A command of the port is taken only with the decoder in COMMAND or OPERANDS and RESET_N released, and only where its frame can
be the one under way (R19, R170, R188; log 12). While a soft reset is in progress every command outside the permitted set gives BUSY
and changes nothing; a window index above 15 gives BAD_INDEX, an unknown code BAD_COMMAND (R173, R174, R185). -/
def Obligations.PortChecks : Prop :=
  ∀ (s : State) (c : Instr), c.isPortCommand = true →
    (s.resetAsserted = true ∨ (s.frame ≠ .command ∧ s.frame ≠ .operands) ∨ ¬s.receivedBits <+: (frameOf c).flatMap bitsOf →
      exec c s = .next s) ∧
    (s.portTakes →
      (c.isPermitted = false → s.softReset = true → exec c s = .next (s.withReply [0x85#8])) ∧
      (∀ b ∈ c.windowIndex?, 16 ≤ b.toNat → (c.isPermitted = true ∨ s.softReset = false) →
        exec c s = .next (s.withReply [0x81#8])) ∧
      (∀ code : Byte, c = .badCommand code →
        code.toNat ∉ [0x01, 0x10, 0x11, 0x12, 0x13, 0x20, 0x21, 0x22, 0x23, 0x24, 0x30, 0x31, 0x32, 0x40, 0x41, 0x5A] →
        exec c s = .next (s.withReply [0x80#8])))

/-- IDENTIFY returns OK, the part code, revision and capacities, the epoch counter, the time count and the soft-reset
condition, during a soft reset too, and changes no state but the port's (R177, R182). -/
def Obligations.IdentifyResult : Prop :=
  ∀ s : State, s.portTakes →
    exec .identify s =
      .next (s.withReply
        ([0x00#8, 0x16#8, 0x4C#8, 0x01#8, 16#8, 8#8, 0x00#8, 0x02#8, 8#8, 32#8, 32#8] ++
          [s.epochCounter.setWidth 8, (s.epochCounter >>> 8).setWidth 8] ++
          [s.timeCount.setWidth 8, (s.timeCount >>> 8).setWidth 8, (s.timeCount >>> 16).setWidth 8, (s.timeCount >>> 24).setWidth 8] ++
          [if s.softReset then 1#8 else 0#8]))

/-- READ_WINDOWS, READ_AREAS and READ_SLOTS: OK, the number of records up to the table's end, the records from the first in
ascending index order, zero bytes in the places beyond; an index outside the table gives BAD_INDEX and a count outside its
range BAD_VALUE; no record changes (R173, R175, R179). -/
def Obligations.TableReads : Prop :=
  ∀ (s : State) (b n : Byte) (f : BitVec 16), s.portTakes →
    let reply := fun (size width most first count : Nat) (rec : Nat → List Byte) =>
      if size ≤ first then [0x81#8]
      else if count = 0 ∨ most < count then [0x82#8]
      else
        [0x00#8, BitVec.ofNat 8 (min count (size - first))] ++
          ((List.range' first (min count (size - first))).map rec).flatten ++
          List.replicate (width * (count - min count (size - first))) 0#8
    exec (.readWindows b n) s = .next (s.withReply (reply 16 32 16 b.toNat n.toNat s.windowBytes)) ∧
      exec (.readAreas b n) s = .next (s.withReply (reply 8 7 8 b.toNat n.toNat s.areaBytes)) ∧
      exec (.readSlots f n) s = .next (s.withReply (reply 512 17 16 f.toNat n.toNat s.slotSummary)) ∧
      (∀ k, (s.windowBytes k).length = 32 ∧ (s.areaBytes k).length = 7 ∧ (s.slotSummary k).length = 17)

/-- READ_GROUPS returns OK, the count and the records oldest first in 101 bytes, in every window state; READ_STATS the four
counts, which become 0 in the same taking when zero-after-read is 1, BAD_VALUE when it is neither 0 nor 1 (R39, R63, R173,
R180, R181). -/
def Obligations.GroupAndStatReads : Prop :=
  ∀ (s : State) (w : WIdx) (z : Byte), s.portTakes →
    (exec (.readGroups (BitVec.ofNat 8 w.val)) s =
      .next (s.withReply
        ([0x00#8, BitVec.ofNat 8 (s.win w).groups.length] ++ ((s.win w).groups.map Group.bytes).flatten ++
          List.replicate (25 * (4 - (s.win w).groups.length)) 0#8))) ∧
    (∀ g : Group, g.bytes.length = 25) ∧
    (z = 0 → exec (.readStats (BitVec.ofNat 8 w.val) z) s = .next (s.withReply (0x00#8 :: (s.win w).stats.bytes))) ∧
    (z = 1 → exec (.readStats (BitVec.ofNat 8 w.val) z) s =
      .next ((s.setWin w { s.win w with stats := ⟨0, 0, 0, 0⟩ }).withReply (0x00#8 :: (s.win w).stats.bytes))) ∧
    (z ≠ 0 → z ≠ 1 → exec (.readStats (BitVec.ofNat 8 w.val) z) s = .next (s.withReply [0x82#8]))

/-- R164: POP_EVENTS(n) gives BAD_VALUE for n outside 1 to 8; otherwise it removes the first k records, k the smaller of n and
their number, and returns k and those records; OK when k is 1 or more, NONE when the queue is empty; the sequence, the lost
count and everything outside the event queue and the port stay, during a soft reset too; an emptied queue deasserts ALERT_N.
-/
def Obligations.PopEvents : Prop :=
  ∀ (s : State) (n : Byte), s.portTakes →
    (n = 0 ∨ 8 < n.toNat → exec (.popEvents n) s = .next (s.withReply [0x82#8])) ∧
    (1 ≤ n.toNat → n.toNat ≤ 8 →
      let k := min n.toNat s.events.length
      let t := { s with events := s.events.drop k }
      exec (.popEvents n) s =
        .next (t.withReply
          ([if s.events = [] then 0x02#8 else 0x00#8, BitVec.ofNat 8 k] ++ ((s.events.take k).map Event.bytes).flatten ++
            List.replicate (13 * (n.toNat - k)) 0#8)) ∧
      t.alertAsserted = decide (k < s.events.length))

/-- WRITE_WINDOW. For an UNUSED or OFFLINE window size 0 makes it UNUSED, keeping next group number and statistics; otherwise
BAD_VALUE when a field is refused, OVERLAP when the range shares a line with another configured window, else the fields take
the command's values and the window is OFFLINE (R21 to R23, R178). For a live window STATE when a compared field differs,
BAD_VALUE when the enables name a kind that is not window-scoped, else the event enables alone change (R24). -/
def Obligations.WriteWindow : Prop :=
  (∀ (s : State) (op : WindowOperands) (w : WIdx), s.portTakes → s.softReset = false → op.index = BitVec.ofNat 8 w.val →
      (s.win w).state.live = false →
      let markerOk := op.markerOffset.toNat < op.size.toNat ∧ op.laneGroup.toNat ≤ 3 ∧ op.completion.toNat ≤ 1
      let ok := op.base.toNat % 32 = 0 ∧ op.size.toNat ≤ 33554432 ∧ op.base.toNat + 32 * op.size.toNat ≤ 2 ^ 40 ∧ op.area.toNat ≤ 7 ∧
        op.trigger.toNat ≤ 2 ∧ (op.trigger.toNat ≤ 1 → markerOk) ∧ op.policy.toNat ≤ 1 ∧ op.holdLimit ≠ 0 ∧ op.ageAction.toNat ≤ 1 ∧
        op.enables.toNat < 256
      let overlap := ∃ v : WIdx, v ≠ w ∧ (s.win v).state ≠ .unused ∧
        op.base.toNat / 32 < (s.win v).base.toNat + (s.win v).size.toNat ∧ (s.win v).base.toNat < op.base.toNat / 32 + op.size.toNat
      (op.size = 0 →
        exec (.writeWindow op) s =
          .next ((s.setWin w
            { Window.zero with nextGroup := (s.win w).nextGroup, stats := (s.win w).stats, groups := (s.win w).groups }).withReply
            [0x00#8])) ∧
      (op.size ≠ 0 → ¬ok → exec (.writeWindow op) s = .next (s.withReply [0x82#8])) ∧
      (op.size ≠ 0 → ok → overlap → exec (.writeWindow op) s = .next (s.withReply [0x83#8])) ∧
      (op.size ≠ 0 → ok → ¬overlap →
        ∃ x : Window, exec (.writeWindow op) s = .next ((s.setWin w x).withReply [0x00#8]) ∧ x.state = .offline ∧
          Line.addr x.base = op.base ∧ x.size = op.size ∧ x.area.val = op.area.toNat ∧ x.trigger.code = op.trigger ∧
          (x.trigger = .epoch → x.marker = none) ∧
          (x.trigger ≠ .epoch → ∃ m ∈ x.marker, m.offset = op.markerOffset ∧ m.laneGroup.val = op.laneGroup.toNat ∧
            m.completion.code = op.completion) ∧
          x.policy.code = op.policy ∧ x.holdLimit = op.holdLimit ∧ x.ageLimit = op.ageLimit ∧ x.ageAction.code = op.ageAction ∧
          x.enables.setWidth 16 = op.enables ∧ x.nextGroup = (s.win w).nextGroup ∧ x.stats = (s.win w).stats ∧
          x.groups = (s.win w).groups ∧ x.frozenFrom = (s.win w).frozenFrom ∧ x.quiesceMode = (s.win w).quiesceMode)) ∧
  (∀ (s : State) (op : WindowOperands) (w : WIdx), s.portTakes → s.softReset = false → op.index = BitVec.ofNat 8 w.val →
      (s.win w).state.live = true →
      let x := s.win w
      let same := op.base = Line.addr x.base ∧ op.size = x.size ∧ op.area.toNat = x.area.val ∧ op.trigger = x.trigger.code ∧
        (x.trigger ≠ .epoch → ∃ m ∈ x.marker, op.markerOffset = m.offset ∧ op.laneGroup.toNat = m.laneGroup.val ∧
          op.completion = m.completion.code) ∧
        op.policy = x.policy.code ∧ op.holdLimit = x.holdLimit ∧ op.ageLimit = x.ageLimit ∧ op.ageAction = x.ageAction.code
      (¬same → exec (.writeWindow op) s = .next (s.withReply [0x84#8])) ∧
      (same → 256 ≤ op.enables.toNat → exec (.writeWindow op) s = .next (s.withReply [0x82#8])) ∧
      (same → op.enables.toNat < 256 →
        exec (.writeWindow op) s = .next ((s.setWin w { x with enables := op.enables.setWidth 8 }).withReply [0x00#8])))

/-- WRITE_AREA: BAD_INDEX above 7; BAD_VALUE for an extent outside the table; STATE while a joined window is ONLINE, QUIESCING
or FROZEN; OVERLAP when the extent shares a slot with another area that is not empty; else the extent changes (R44, R45). -/
def Obligations.WriteAreaChecks : Prop :=
  ∀ (s : State) (a : AIdx) (b : Byte) (first count : BitVec 16), s.portTakes → s.softReset = false →
    let ok := first.toNat ≤ 511 ∧ count.toNat ≤ 512 ∧ first.toNat + count.toNat ≤ 512
    let inUse := ∃ w : WIdx, (s.win w).area = a ∧ (s.win w).state.live = true
    let overlap := 1 ≤ count.toNat ∧ ∃ o : AIdx, o ≠ a ∧ 1 ≤ (s.area o).count ∧
      first.toNat ≤ (s.area o).first + (s.area o).count - 1 ∧ (s.area o).first ≤ first.toNat + count.toNat - 1
    let cmd := fun x : Byte => exec (.writeArea x first count) s
    (8 ≤ b.toNat → cmd b = .next (s.withReply [0x81#8])) ∧
    (b = BitVec.ofNat 8 a.val →
      (¬ok → cmd b = .next (s.withReply [0x82#8])) ∧
      (ok → inUse → cmd b = .next (s.withReply [0x84#8])) ∧
      (ok → ¬inUse → overlap → cmd b = .next (s.withReply [0x83#8])) ∧
      (ok → ¬inUse → ¬overlap →
        cmd b = .next ((s.setArea a { s.area a with first := first.toNat, count := count.toNat }).withReply [0x00#8])))

/-- SET_ONLINE: an OFFLINE window whose area has slot count 1 or more becomes ONLINE; in every other case STATE, nothing
changed (R28). -/
def Obligations.SetOnline : Prop :=
  ∀ (s : State) (w : WIdx), s.portTakes → s.softReset = false →
    let cmd := exec (.setOnline (BitVec.ofNat 8 w.val)) s
    ((s.win w).state = .offline → 1 ≤ (s.area (s.win w).area).count →
      cmd = .next ((s.setWin w { s.win w with state := .online }).withReply [0x00#8])) ∧
    ((s.win w).state ≠ .offline ∨ (s.area (s.win w).area).count = 0 → cmd = .next (s.withReply [0x84#8]))

/-- Window commands that act on nothing, the state unchanged. SET_OFFLINE gives STATE in QUIESCING and FROZEN and NONE in
OFFLINE and UNUSED, CLEAR_FAULT gives STATE outside FROZEN, an unlisted mode or action BAD_VALUE whatever the state (R29,
R37); SEAL, RELEASE and DISCARD that find nothing to act on give NONE (R77, R84, R96). -/
def Obligations.WindowCommandsTurnedAway : Prop :=
  ∀ (s : State) (w : WIdx) (v : Byte), s.portTakes → s.softReset = false →
    let b : Byte := BitVec.ofNat 8 w.val
    let tells := fun (c : Instr) (st : Byte) => exec c s = .next (s.withReply [st])
    (((s.win w).state = .quiescing ∨ (s.win w).state = .frozen) →
      tells (.setOfflineFinish b 0) 0x84#8 ∧ tells (.setOfflineDrop b 1) 0x84#8) ∧
    (((s.win w).state = .offline ∨ (s.win w).state = .unused) →
      tells (.setOfflineFinish b 0) 0x02#8 ∧ tells (.setOfflineDrop b 1) 0x02#8) ∧
    ((s.win w).state ≠ .frozen → tells (.clearFaultRetry b 0) 0x84#8 ∧ tells (.clearFaultAbandon b 1) 0x84#8) ∧
    (v ≠ 0 → v ≠ 1 →
      tells (.setOfflineFinish b v) 0x82#8 ∧ tells (.setOfflineDrop b v) 0x82#8 ∧ tells (.clearFaultRetry b v) 0x82#8 ∧
        tells (.clearFaultAbandon b v) 0x82#8) ∧
    (((s.win w).state ≠ .online ∨ ∀ g ∈ s.youngest w, g.state ≠ .opened) → tells (.seal b) 0x02#8) ∧
    (((s.win w).state ≠ .online ∧ (s.win w).state ≠ .frozen ∨ ∀ g ∈ (s.win w).groups, g.state ≠ .sealed) →
      tells (.release b) 0x02#8) ∧
    (((s.win w).state ≠ .online ∧ (s.win w).state ≠ .frozen ∨
        ∀ g ∈ (s.win w).groups, g.state ≠ .opened ∧ g.state ≠ .broken ∧ g.state ≠ .sealed) →
      tells (.discard b) 0x02#8)

/-- SET_OFFLINE(w, FINISH) on an ONLINE window gives ACCEPTED. Its held writes leave the list; every group left is RELEASED or
later; the window is QUIESCING with mode FINISH, or OFFLINE when no group is left (R29 to R31, R33). With no held write and
one OPEN group that holds entries, the group is sealed MANUAL, released without release epoch and taken; with no group at all
WINDOW_OFFLINE is posted. -/
def Obligations.QuiesceFinish : Prop :=
  ∀ (s : State) (w : WIdx), s.portTakes → s.softReset = false → (s.win w).state = .online →
    let cmd := exec (.setOfflineFinish (BitVec.ofNat 8 w.val) 0) s
    (s.tableLaw →
      ∃ t : State, cmd = .next (t.withReply [0x01#8]) ∧ (∀ h ∈ t.holds, h.window ≠ w) ∧
        (∀ g ∈ (t.win w).groups, g.state.releasedOrLater = true) ∧
        ((t.win w).groups ≠ [] → (t.win w).state = .quiescing ∧ (t.win w).quiesceMode = some .finish) ∧
        ((t.win w).groups = [] → (t.win w).state = .offline ∧ (t.win w).quiesceMode = none) ∧
        (∀ v : WIdx, v ≠ w → t.win v = s.win v) ∧ s.sameOutsideGroups t) ∧
    ((∀ h ∈ s.holds, h.window ≠ w) →
      (∀ g, (s.win w).groups = [g] → g.state = .opened → g.entryCount ≠ 0 → s.hasOrphan w = false →
        cmd = .next ((s.setWin w
          { s.win w with
            state := .quiescing, quiesceMode := some .finish
            groups :=
              [{ g with
                 state := .draining, sealCause := some .manual, markerData := none, ageDeadline := none, pendingMarker := none
                 releaseEpoch := none, issued := 0, acked := 0, outstanding := 0, failedLine := none }] }).withReply [0x01#8])) ∧
      ((s.win w).groups = [] →
        cmd = .next (((s.setWin w { s.win w with state := .offline, quiesceMode := none }).post w
          { kind := .windowOffline, window := some w, group := none, source := none, cause := none, line := none }).withReply
          [0x01#8])))

/-- SET_OFFLINE(w, DROP) on an ONLINE window: its held writes leave the list, every OPEN, BROKEN and SEALED group is discarded
with its entries and counted, RELEASED and later groups stay; the window is QUIESCING, or OFFLINE when nothing is left;
ACCEPTED (R30, R32, R33, R83). -/
def Obligations.QuiesceDrop : Prop :=
  ∀ (s : State) (w : WIdx), s.portTakes → s.softReset = false → (s.win w).state = .online →
    let gone := (s.win w).groups.filter fun g : Group => !g.state.releasedOrLater
    let left := (s.win w).groups.filter fun g : Group => g.state.releasedOrLater
    ∃ t : State, exec (.setOfflineDrop (BitVec.ofNat 8 w.val) 1) s = .next (t.withReply [0x01#8]) ∧
      (t.win w).groups = left ∧
      (left ≠ [] → (t.win w).state = .quiescing ∧ (t.win w).quiesceMode = some .drop) ∧
      (left = [] → (t.win w).state = .offline ∧ (t.win w).quiesceMode = none) ∧
      (t.win w).stats.discarded = (s.win w).stats.discarded + BitVec.ofNat 32 gone.length ∧
      (t.win w).stats.published = (s.win w).stats.published ∧ (t.win w).stats.broken = (s.win w).stats.broken ∧
      (t.win w).stats.refused = (s.win w).stats.refused +
        BitVec.ofNat 32 ((s.holds.countP fun h => h.window == w) + gone.countP fun g => g.pendingMarker.isSome) ∧
      t.slots = s.slots.filter (fun e : Entry => !gone.any fun g : Group => e.ofGroup w g.number) ∧
      (∀ h ∈ t.holds, h.window ≠ w) ∧
      (∀ v : WIdx, v ≠ w → t.win v = s.win v) ∧
      s.sameOutsideGroups t

/-- SEAL on an ONLINE window with an OPEN group: the group is sealed with cause MANUAL and no marker data and the window's
held writes are marked; in MARKER mode it is released too, in the other modes it stays SEALED; OK (R75 to R77, R148). -/
def Obligations.SealCommand : Prop :=
  ∀ (s : State) (w : WIdx) (g : Group), s.portTakes → s.softReset = false → (s.win w).state = .online →
    s.youngest w = some g → g.state = .opened →
    let u := ({ s with
        holds := s.holds.map fun h : Held => if h.window = w then { h with pending := true } else h } : State).setYoungest w
      { g with state := .sealed, sealCause := some .manual, markerData := none, ageDeadline := none, pendingMarker := none }
    ((s.win w).trigger ≠ .marker → exec (.seal (BitVec.ofNat 8 w.val)) s = .next (u.withReply [0x00#8])) ∧
    ((s.win w).trigger = .marker →
      exec (.seal (BitVec.ofNat 8 w.val)) s = .next ((u.releaseAll w none).withReply [0x00#8]))

/-- RELEASE: every SEALED group of an ONLINE or FROZEN window becomes RELEASED, its release epoch absent; where the oldest
record is drained already the drain engine takes none, and nothing else changes (R96, R103). -/
def Obligations.ReleaseCommand : Prop :=
  ∀ (s : State) (w : WIdx) (g : Group), s.portTakes → s.softReset = false →
    ((s.win w).state = .online ∨ (s.win w).state = .frozen) → (∃ y ∈ (s.win w).groups, y.state = .sealed) →
    s.oldest w = some g →
    (g.state = .draining ∨ g.state = .marking ∨ g.state = .faulted →
      exec (.release (BitVec.ofNat 8 w.val)) s =
        .next ((s.setWin w
          { s.win w with
            groups := (s.win w).groups.map fun y : Group =>
              if y.state = .sealed then { y with state := .released, releaseEpoch := none } else y }).withReply [0x00#8])) ∧
    (g.state = .sealed → g.entryCount ≠ 0 → s.hasOrphan w = false → (s.win w).state = .online →
      exec (.release (BitVec.ofNat 8 w.val)) s =
        .next ((s.setWin w
          { s.win w with
            groups :=
              { g with
                state := .draining, releaseEpoch := none, issued := 0, acked := 0, outstanding := 0, failedLine := none } ::
              (s.win w).groups.tail.map fun y : Group =>
                if y.state = .sealed then { y with state := .released, releaseEpoch := none } else y }).withReply [0x00#8]))

/-- DISCARD on an ONLINE or FROZEN window with an OPEN, BROKEN or SEALED group: those groups are discarded with their entries
and counted, the others stay, the window keeps its state; OK (R83, R84). -/
def Obligations.DiscardCommand : Prop :=
  ∀ (s : State) (w : WIdx), s.portTakes → s.softReset = false → ((s.win w).state = .online ∨ (s.win w).state = .frozen) →
    let gone := (s.win w).groups.filter fun g : Group => !g.state.releasedOrLater
    gone ≠ [] →
    ∃ t : State, exec (.discard (BitVec.ofNat 8 w.val)) s = .next (t.withReply [0x00#8]) ∧
      t.win w =
        { s.win w with
          groups := (s.win w).groups.filter fun g : Group => g.state.releasedOrLater
          stats := { (s.win w).stats with
            discarded := (s.win w).stats.discarded + BitVec.ofNat 32 gone.length
            refused := (s.win w).stats.refused + BitVec.ofNat 32 (gone.countP fun g => g.pendingMarker.isSome) } } ∧
      t.slots = s.slots.filter (fun e : Entry => !gone.any fun g : Group => e.ofGroup w g.number) ∧
      t.holds.map Held.slot = s.holds.map Held.slot ∧ (∀ h ∈ t.holds, h.window = w → h.pending = true) ∧
      (∀ v : WIdx, v ≠ w → t.win v = s.win v) ∧
      s.sameOutsideGroups t

/-- CLEAR_FAULT(w, RETRY): the window returns to frozen-from, to QUIESCING with mode DROP; the FAULTED group is DRAINING
again, or MARKING where it holds no entry, its failed line absent, its counts kept; nothing else changes (R37, R119).
CLEAR_FAULT(w, ABANDON) on a window frozen from ONLINE that holds the FAULTED group alone: its entries are freed, its credits
become orphaned writes of the window, a LATE marker is answered FAILED, GROUP_DISCARDED is posted with cause ABANDON and
counted, the record is freed (R37, R56, R121). -/
def Obligations.ClearFault : Prop :=
  (∀ (s : State) (w : WIdx) (g : Group) (from_ : FrozenFrom), s.portTakes → s.softReset = false →
      (s.win w).state = .frozen → (s.win w).frozenFrom = some from_ → s.oldest w = some g → g.state = .faulted →
      exec (.clearFaultRetry (BitVec.ofNat 8 w.val) 0) s =
        .next ((s.setWin w
          { s.win w with
            frozenFrom := none
            state := match from_ with
              | .online => .online
              | .quiescing => .quiescing
            quiesceMode := match from_ with
              | .online => (s.win w).quiesceMode
              | .quiescing => some .drop
            groups := { g with state := if g.entryCount = 0 then .marking else .draining, failedLine := none } ::
              (s.win w).groups.tail }).withReply [0x00#8])) ∧
  (∀ (s : State) (w : WIdx) (g : Group), s.portTakes → s.softReset = false →
      (s.win w).state = .frozen → (s.win w).frozenFrom = some .online → (s.win w).groups = [g] → g.state = .faulted →
      ∃ t : State, exec (.clearFaultAbandon (BitVec.ofNat 8 w.val) 1) s = .next (t.withReply [0x00#8]) ∧
        t.win w =
          { s.win w with
            state := .online, frozenFrom := none, groups := []
            stats := { (s.win w).stats with discarded := (s.win w).stats.discarded + 1 } } ∧
        (∀ v : WIdx, v ≠ w → t.win v = s.win v) ∧
        t.slots = s.slots.filter (fun e => !e.ofGroup w g.number) ∧
        (t.area (s.win w).area).used = (s.area (s.win w).area).used - s.slots.countP (fun e => e.ofGroup w g.number) ∧
        (∀ c, t.credit c = match s.credit c with
          | .drain (.marker v n) => if v = w ∧ n = g.number then .drain (.orphan w) else .drain (.marker v n)
          | .drain (.entry v n q) => if v = w ∧ n = g.number then .drain (.orphan w) else .drain (.entry v n q)
          | .drain (.orphan v) => .drain (.orphan v)
          | .forwarder x => .forwarder x
          | .free => .free) ∧
        (g.pendingMarker = none → t.transit = s.transit) ∧
        (∀ src tag u, g.pendingMarker = some (src, tag) → s.groupRcd? src tag = some u →
          t.transit = (s.answerRcd u .failed none).transit) ∧
        t.eventUnit = (s.post w
          { kind := .groupDiscarded, window := some w, group := some g.number, source := some g.owner, cause := some .abandon,
            line := none }).eventUnit ∧
        ({ s with credits := t.credits } : State).sameOutsideGroups t)

/-- SOFT_RESET gives ACCEPTED. With no window ONLINE, FROZEN or QUIESCING and no group left it ends within its own taking; with groups
still draining it stays in progress with quiesce mode DROP, and ends in the taking that frees the last record, here the marker's
DONE that publishes it. Its first step abandons the faulted group of every FROZEN window, whose outstanding writes become orphaned,
and the window's next group is taken where it is RELEASED and no orphaned write remains; its second quiesces every ONLINE window,
and every window that returned to ONLINE, with DROP: held writes refused and answered, unreleased groups discarded and counted,
their slots freed; the LATE marker of an abandoned group is answered FAILED, of a discarded one REFUSED; a window left with no group
is OFFLINE (R30, R32, R33, R37, R40, R103, R121, R126, R153; the taking within the first step is the model's choice, log 28, and
makes no difference to the states here). At its end windows, areas, slots and turn pointer take their zero values and RESET_DONE
with sequence 0 and lost 0 is the only event; the ports, the epoch counter and the time count are unchanged (R112, R168, R184,
R186). The orders among windows are operands (log 8) and make no difference here. -/
def Obligations.SoftReset : Prop :=
  ∀ s : State,
    let ended : State → State := fun u =>
      { u with
        windows := Vector.replicate 16 Window.zero, areas := Vector.replicate 8 Area.zero, slots := [], turn := none
        events := [(⟨0, { kind := .resetDone, window := none, group := none, source := none, cause := none, line := none }, 0⟩ : Event)]
        nextSeq := 1, lost := 0, softReset := false }
    (∀ o1 o2 : List WIdx, s.portTakes → s.softReset = false →
      (∀ w : WIdx, (s.win w).state ≠ .online ∧ (s.win w).state ≠ .frozen) →
      ((∀ w : WIdx, (s.win w).state ≠ .quiescing ∧ (s.win w).groups = []) →
        exec (.softReset o1 o2) s = .next ((ended s).withReply [0x01#8])) ∧
      ((∃ w : WIdx, (s.win w).groups ≠ []) →
        ∃ t : State, exec (.softReset o1 o2) s = .next (t.withReply [0x01#8]) ∧ t.softReset = true ∧
          (∀ w : WIdx, (s.win w).state = .quiescing → t.win w = { s.win w with quiesceMode := some .drop }) ∧
          (∀ w : WIdx, (s.win w).state ≠ .quiescing → t.win w = s.win w) ∧
          t = { s with softReset := true, windows := t.windows })) ∧
    (∀ (c : CreditNo) (data : LineData) (w : WIdx) (g : Group),
      s.resetAsserted = false → s.softReset = true → s.credit c = .drain (.marker w g.number) → (s.win w).groups = [g] →
      g.state = .marking → (s.win w).marker ≠ none → (s.win w).state = .quiescing →
      (∀ v : WIdx, v ≠ w → (s.win v).groups = []) → g.pendingMarker = none → s.holds = [] →
      exec (.downstreamResponse c .done data) s = .next (ended { s with credits := s.credits.set c.val .free c.isLt })) ∧
    (∀ o1 o2 : List WIdx, s.portTakes → s.softReset = false → s.tableLaw →
      (∀ w : WIdx, (s.win w).state = .frozen → ∀ y ∈ (s.win w).groups.tail.head?, y.state = .released → y.entryCount ≠ 0) →
      let goes := fun g : Group => !g.state.releasedOrLater || g.state == .faulted
      let orphaned := fun (w : WIdx) (n : Byte) => ∃ g ∈ s.oldest w, g.state = .faulted ∧ g.number = n
      let writes := fun w : WIdx => ∃ c : CreditNo, s.credit c = .drain (.orphan w) ∨
        ∃ n, orphaned w n ∧ (s.credit c = .drain (.marker w n) ∨ ∃ q, s.credit c = .drain (.entry w n q))
      let stays := fun w : WIdx => (s.win w).groups.filter fun g => !goes g
      ∃ (t : State) (left : WIdx → List Group), exec (.softReset o1 o2) s = .next (t.withReply [0x01#8]) ∧
        (∀ w : WIdx,
          ((s.win w).state ≠ .frozen ∨ writes w ∨ (∀ y ∈ (stays w).head?, y.state ≠ .released) → left w = stays w) ∧
          (∀ y ys, (s.win w).state = .frozen → ¬writes w → stays w = y :: ys → y.state = .released →
            left w = { y with state := .draining, issued := 0, acked := 0, outstanding := 0, failedLine := none } :: ys)) ∧
        (∀ c, t.credit c = match s.credit c with
          | .drain (.marker w n) => if orphaned w n then .drain (.orphan w) else .drain (.marker w n)
          | .drain (.entry w n q) => if orphaned w n then .drain (.orphan w) else .drain (.entry w n q)
          | .drain (.orphan w) => .drain (.orphan w)
          | .forwarder x => .forwarder x
          | .free => .free) ∧
        t.holds = [] ∧
        (∀ u, s.rcd u = none → t.rcd u = none) ∧
        (s.oneRecordEach → ∀ u : RecNo, ∀ r ∈ s.rcd u,
          let waits := r.path = .group ∧ r.result = none
          let held := waits ∧ ∃ h ∈ s.holds, h.source = r.source ∧ h.tag = r.tag
          let pends := fun g : Group => waits ∧ g.pendingMarker = some (r.source, r.tag)
          let told := fun res : Result => t.rcd u = some { r with wait := .answer, result := some res, readData := none }
          (held → (∀ w : WIdx, ∀ g ∈ (s.win w).groups, ¬pends g) → told .refused) ∧
          (¬held → ∀ w : WIdx, ∀ g ∈ (s.win w).groups, pends g →
            (∀ v : WIdx, ∀ y ∈ (s.win v).groups, pends y → y.state = g.state) →
            (g.state = .faulted → told .failed) ∧ (g.state.releasedOrLater = false → told .refused)) ∧
          (¬held → (∀ w : WIdx, ∀ g ∈ (s.win w).groups, pends g → goes g = false) → t.rcd u = some r)) ∧
        ((∀ w : WIdx, left w = []) → t = ended { s with transit := t.transit, credits := t.credits, holds := [] }) ∧
        ((∃ w : WIdx, left w ≠ []) → t.softReset = true ∧
          (∀ w : WIdx,
            ((s.win w).state = .unused ∨ (s.win w).state = .offline → t.win w = s.win w) ∧
            ((s.win w).state = .quiescing → t.win w = { s.win w with quiesceMode := some .drop }) ∧
            ((s.win w).state = .online ∨ (s.win w).state = .frozen →
              t.win w =
                { s.win w with
                  state := if left w = [] then .offline else .quiescing
                  quiesceMode := if left w = [] then none else some .drop
                  frozenFrom := none
                  groups := left w
                  stats := { (s.win w).stats with
                    discarded := (s.win w).stats.discarded + BitVec.ofNat 32 ((s.win w).groups.countP goes)
                    refused := (s.win w).stats.refused + BitVec.ofNat 32 ((s.holds.countP fun h => h.window == w) +
                      (s.win w).groups.countP fun g => !g.state.releasedOrLater && g.pendingMarker.isSome) } })) ∧
          t.slots = s.slots.filter (fun e : Entry =>
            !(s.win e.window).groups.any fun g : Group => goes g && e.ofGroup e.window g.number) ∧
          (∃ more, t.events = s.events ++ more) ∧
          ({ s with softReset := true, credits := t.credits } : State).sameOutsideGroups t))

/-! ### Frames and deadlines -/

/-- R175 and R169: what a frame is, and that the decoder reads it. Bytes travel most significant bit first, fields of several bytes least
significant byte first. The frame of a command is its code and its operand bytes in the order of the command set; the bytes of a frame
spell that command and no other, and no shorter part of it spells one. The bits of the frame, clocked after a fall of MSEL_N, take the
command; cut at any bit, they leave the decoder in COMMAND or OPERANDS with the fill byte read for each whole byte, and the command's own
row completes the frame to the same state (R170, R171). The orders of a SOFT_RESET are no part of its frame (log 8), and a frame with an
unlisted mode or action is spelled by one of its two rows (log 15). -/
def Obligations.FrameSpellsCommand : Prop :=
  (∀ b : Byte, bitsOf b =
    [b.getLsbD 7, b.getLsbD 6, b.getLsbD 5, b.getLsbD 4, b.getLsbD 3, b.getLsbD 2, b.getLsbD 1, b.getLsbD 0]) ∧
  (∀ (a b : Byte) (f n : BitVec 16) (o1 o2 : List WIdx) (op : WindowOperands),
    let lo := fun x : BitVec 16 => x.setWidth 8
    let hi := fun x : BitVec 16 => (x >>> 8).setWidth 8
    let four := fun x : BitVec 32 =>
      [x.setWidth 8, (x >>> 8).setWidth 8, (x >>> 16).setWidth 8, (x >>> 24).setWidth 8]
    frameOf .identify = [0x01#8] ∧ frameOf (.readWindows a b) = [0x10#8, a, b] ∧
      frameOf (.writeWindow op) =
        [0x11#8, op.index] ++
          [op.base.setWidth 8, (op.base >>> 8).setWidth 8, (op.base >>> 16).setWidth 8, (op.base >>> 24).setWidth 8,
            (op.base >>> 32).setWidth 8] ++ four op.size ++ [op.area, op.trigger] ++ four op.markerOffset ++
          [op.laneGroup, op.completion, op.policy, lo op.holdLimit, hi op.holdLimit, lo op.ageLimit, hi op.ageLimit, op.ageAction,
            lo op.enables, hi op.enables] ∧
      frameOf (.setOnline a) = [0x12#8, a] ∧ frameOf (.setOfflineFinish a b) = [0x13#8, a, b] ∧
      frameOf (.setOfflineDrop a b) = [0x13#8, a, b] ∧ frameOf (.seal a) = [0x20#8, a] ∧ frameOf (.release a) = [0x21#8, a] ∧
      frameOf (.discard a) = [0x22#8, a] ∧ frameOf (.clearFaultRetry a b) = [0x23#8, a, b] ∧
      frameOf (.clearFaultAbandon a b) = [0x23#8, a, b] ∧ frameOf (.readGroups a) = [0x24#8, a] ∧
      frameOf (.readAreas a b) = [0x30#8, a, b] ∧ frameOf (.writeArea a f n) = [0x31#8, a, lo f, hi f, lo n, hi n] ∧
      frameOf (.readSlots f b) = [0x32#8, lo f, hi f, b] ∧ frameOf (.popEvents a) = [0x40#8, a] ∧
      frameOf (.readStats a b) = [0x41#8, a, b] ∧ frameOf (.softReset o1 o2) = [0x5A#8]) ∧
  ∀ c : Instr, c.isSpelled = true →
    commandOf (frameOf c) = some c ∧
    (∀ k < (frameOf c).length, commandOf ((frameOf c).take k) = none) ∧
    ∀ s : State, s.resetAsserted = false →
      let start : State := { s with frame := .command, shift := [], received := [], buffer := [], masterRead := [] }
      let bits := (frameOf c).flatMap bitsOf
      exec .transactionStart s = .next start ∧
      exec (.transactionEndsEarly ⟨bits, false⟩) start = exec c start ∧
      ∀ k < bits.length, ∃ t : State, exec (.transactionEndsEarly ⟨bits.take k, false⟩) start = .next t ∧
        t.frame = (if k < 8 then .command else .operands) ∧ t.masterRead = List.replicate (k / 8) 0xFF#8 ∧
        t = { start with
          frame := t.frame, shift := (bits.take k).drop (k / 8 * 8), received := (frameOf c).take (k / 8),
          masterRead := t.masterRead } ∧
        exec c t = exec c start

/-- Every step keeps the law of the age deadlines: a deadline is present in OPEN groups only and lies one tick or more, and less than
65,536, ahead of the time count, so that a deadline that has passed is never shown (R60, R78, R180). -/
def Obligations.StepKeepsDeadlineLaw : Prop :=
  ∀ s t : State, s.deadlineLaw → s.tableLaw → step s = .next t → t.deadlineLaw
end

