-- ==== Sys2Proof/Laws/State.lean ====
section
/-! SUPPORT. The small lemmas of State's updates: one per field per update, true by rfl, and what a record reads as after it is
written. -/

namespace Sys2Proof.Machine

/-! ### Reading a record after a write -/

@[simp] theorem State.win_setWin_same (s : State) (w : WIdx) (x : Window) : (s.setWin w x).win w = x := by
  simp [State.win, State.setWin]

theorem State.win_setWin_other (s : State) {v w : WIdx} (x : Window) (h : v ≠ w) : (s.setWin w x).win v = s.win v := by
  have : (w : Nat) ≠ v := fun e => h (Fin.ext e.symm)
  simp [State.win, State.setWin, Vector.getElem_set_ne _ _ this]

theorem State.win_setWin (s : State) (v w : WIdx) (x : Window) :
    (s.setWin w x).win v = if v = w then x else s.win v := by
  split
  · next h => subst h; simp
  · next h => exact s.win_setWin_other x h

@[simp] theorem State.win_modWin_same (s : State) (w : WIdx) (f : Window → Window) : (s.modWin w f).win w = f (s.win w) := by
  simp [State.modWin]

theorem State.win_modWin_other (s : State) {v w : WIdx} (f : Window → Window) (h : v ≠ w) : (s.modWin w f).win v = s.win v :=
  s.win_setWin_other _ h

theorem State.win_modWin (s : State) (v w : WIdx) (f : Window → Window) :
    (s.modWin w f).win v = if v = w then f (s.win v) else s.win v := by
  rw [State.modWin, State.win_setWin]; split
  · next h => rw [h]
  · rfl

@[simp] theorem State.area_setArea_same (s : State) (a : AIdx) (x : Area) : (s.setArea a x).area a = x := by
  simp [State.area, State.setArea]

theorem State.area_setArea_other (s : State) {a b : AIdx} (x : Area) (h : b ≠ a) : (s.setArea a x).area b = s.area b := by
  have : (a : Nat) ≠ b := fun e => h (Fin.ext e.symm)
  simp [State.area, State.setArea, Vector.getElem_set_ne _ _ this]

theorem State.area_setArea (s : State) (a b : AIdx) (x : Area) :
    (s.setArea a x).area b = if b = a then x else s.area b := by
  split
  · next h => subst h; simp
  · next h => exact s.area_setArea_other x h

@[simp] theorem State.rcd_setRcd_same (s : State) (t : RecNo) (x : Option Transit) : (s.setRcd t x).rcd t = x := by
  simp [State.rcd, State.setRcd]

theorem State.rcd_setRcd_other (s : State) {t u : RecNo} (x : Option Transit) (h : u ≠ t) : (s.setRcd t x).rcd u = s.rcd u := by
  have : (t : Nat) ≠ u := fun e => h (Fin.ext e.symm)
  simp [State.rcd, State.setRcd, Vector.getElem_set_ne _ _ this]

theorem State.rcd_setRcd (s : State) (t u : RecNo) (x : Option Transit) :
    (s.setRcd t x).rcd u = if u = t then x else s.rcd u := by
  split
  · next h => subst h; simp
  · next h => exact s.rcd_setRcd_other x h

@[simp] theorem State.credit_setCredit_same (s : State) (c : CreditNo) (x : Credit) : (s.setCredit c x).credit c = x := by
  simp [State.credit, State.setCredit]

theorem State.credit_setCredit_other (s : State) {c d : CreditNo} (x : Credit) (h : d ≠ c) :
    (s.setCredit c x).credit d = s.credit d := by
  have : (c : Nat) ≠ d := fun e => h (Fin.ext e.symm)
  simp [State.credit, State.setCredit, Vector.getElem_set_ne _ _ this]

theorem State.credit_setCredit (s : State) (c d : CreditNo) (x : Credit) :
    (s.setCredit c x).credit d = if d = c then x else s.credit d := by
  split
  · next h => subst h; simp
  · next h => exact s.credit_setCredit_other x h

@[simp] theorem State.credit_mapCredits (s : State) (f : Credit → Credit) (c : CreditNo) :
    (s.mapCredits f).credit c = f (s.credit c) := by
  simp [State.credit, State.mapCredits]

@[simp] theorem State.due_setDue_same (s : State) (w : WIdx) (l : List (BitVec 16)) : (s.setDue w l).due w = l := by
  simp [State.due, State.setDue]

theorem State.due_setDue_other (s : State) {v w : WIdx} (l : List (BitVec 16)) (h : v ≠ w) : (s.setDue w l).due v = s.due v := by
  have : (w : Nat) ≠ v := fun e => h (Fin.ext e.symm)
  simp [State.due, State.setDue, Vector.getElem_set_ne _ _ this]

theorem State.due_setDue (s : State) (v w : WIdx) (l : List (BitVec 16)) :
    (s.setDue w l).due v = if v = w then l else s.due v := by
  split
  · next h => subst h; simp
  · next h => exact s.due_setDue_other l h

/-! ### The field an update does not write -/


section
variable (s : State) (w : WIdx) (x : Window)

@[simp] theorem State.setWin_pending : (s.setWin w x).pending = s.pending := rfl
@[simp] theorem State.setWin_resetAsserted : (s.setWin w x).resetAsserted = s.resetAsserted := rfl
@[simp] theorem State.setWin_linkAsserted : (s.setWin w x).linkAsserted = s.linkAsserted := rfl
@[simp] theorem State.setWin_epochLevel : (s.setWin w x).epochLevel = s.epochLevel := rfl
@[simp] theorem State.setWin_upWaiting : (s.setWin w x).upWaiting = s.upWaiting := rfl
@[simp] theorem State.setWin_upSent : (s.setWin w x).upSent = s.upSent := rfl
@[simp] theorem State.setWin_downSent : (s.setWin w x).downSent = s.downSent := rfl
@[simp] theorem State.setWin_transit : (s.setWin w x).transit = s.transit := rfl
@[simp] theorem State.setWin_fwd : (s.setWin w x).fwd = s.fwd := rfl
@[simp] theorem State.setWin_credits : (s.setWin w x).credits = s.credits := rfl
@[simp] theorem State.setWin_issue : (s.setWin w x).issue = s.issue := rfl
@[simp] theorem State.setWin_lastGrant : (s.setWin w x).lastGrant = s.lastGrant := rfl
@[simp] theorem State.setWin_areas : (s.setWin w x).areas = s.areas := rfl
@[simp] theorem State.setWin_slots : (s.setWin w x).slots = s.slots := rfl
@[simp] theorem State.setWin_turn : (s.setWin w x).turn = s.turn := rfl
@[simp] theorem State.setWin_holds : (s.setWin w x).holds = s.holds := rfl
@[simp] theorem State.setWin_epochCounter : (s.setWin w x).epochCounter = s.epochCounter := rfl
@[simp] theorem State.setWin_epochDue : (s.setWin w x).epochDue = s.epochDue := rfl
@[simp] theorem State.setWin_events : (s.setWin w x).events = s.events := rfl
@[simp] theorem State.setWin_nextSeq : (s.setWin w x).nextSeq = s.nextSeq := rfl
@[simp] theorem State.setWin_lost : (s.setWin w x).lost = s.lost := rfl
@[simp] theorem State.setWin_frame : (s.setWin w x).frame = s.frame := rfl
@[simp] theorem State.setWin_shift : (s.setWin w x).shift = s.shift := rfl
@[simp] theorem State.setWin_received : (s.setWin w x).received = s.received := rfl
@[simp] theorem State.setWin_buffer : (s.setWin w x).buffer = s.buffer := rfl
@[simp] theorem State.setWin_masterRead : (s.setWin w x).masterRead = s.masterRead := rfl
@[simp] theorem State.setWin_softReset : (s.setWin w x).softReset = s.softReset := rfl
@[simp] theorem State.setWin_timeCount : (s.setWin w x).timeCount = s.timeCount := rfl

end

section
variable (s : State) (w : WIdx) (f : Window → Window)

@[simp] theorem State.modWin_pending : (s.modWin w f).pending = s.pending := rfl
@[simp] theorem State.modWin_resetAsserted : (s.modWin w f).resetAsserted = s.resetAsserted := rfl
@[simp] theorem State.modWin_linkAsserted : (s.modWin w f).linkAsserted = s.linkAsserted := rfl
@[simp] theorem State.modWin_epochLevel : (s.modWin w f).epochLevel = s.epochLevel := rfl
@[simp] theorem State.modWin_upWaiting : (s.modWin w f).upWaiting = s.upWaiting := rfl
@[simp] theorem State.modWin_upSent : (s.modWin w f).upSent = s.upSent := rfl
@[simp] theorem State.modWin_downSent : (s.modWin w f).downSent = s.downSent := rfl
@[simp] theorem State.modWin_transit : (s.modWin w f).transit = s.transit := rfl
@[simp] theorem State.modWin_fwd : (s.modWin w f).fwd = s.fwd := rfl
@[simp] theorem State.modWin_credits : (s.modWin w f).credits = s.credits := rfl
@[simp] theorem State.modWin_issue : (s.modWin w f).issue = s.issue := rfl
@[simp] theorem State.modWin_lastGrant : (s.modWin w f).lastGrant = s.lastGrant := rfl
@[simp] theorem State.modWin_areas : (s.modWin w f).areas = s.areas := rfl
@[simp] theorem State.modWin_slots : (s.modWin w f).slots = s.slots := rfl
@[simp] theorem State.modWin_turn : (s.modWin w f).turn = s.turn := rfl
@[simp] theorem State.modWin_holds : (s.modWin w f).holds = s.holds := rfl
@[simp] theorem State.modWin_epochCounter : (s.modWin w f).epochCounter = s.epochCounter := rfl
@[simp] theorem State.modWin_epochDue : (s.modWin w f).epochDue = s.epochDue := rfl
@[simp] theorem State.modWin_events : (s.modWin w f).events = s.events := rfl
@[simp] theorem State.modWin_nextSeq : (s.modWin w f).nextSeq = s.nextSeq := rfl
@[simp] theorem State.modWin_lost : (s.modWin w f).lost = s.lost := rfl
@[simp] theorem State.modWin_frame : (s.modWin w f).frame = s.frame := rfl
@[simp] theorem State.modWin_shift : (s.modWin w f).shift = s.shift := rfl
@[simp] theorem State.modWin_received : (s.modWin w f).received = s.received := rfl
@[simp] theorem State.modWin_buffer : (s.modWin w f).buffer = s.buffer := rfl
@[simp] theorem State.modWin_masterRead : (s.modWin w f).masterRead = s.masterRead := rfl
@[simp] theorem State.modWin_softReset : (s.modWin w f).softReset = s.softReset := rfl
@[simp] theorem State.modWin_timeCount : (s.modWin w f).timeCount = s.timeCount := rfl

end

section
variable (s : State) (a : AIdx) (x : Area)

@[simp] theorem State.setArea_pending : (s.setArea a x).pending = s.pending := rfl
@[simp] theorem State.setArea_resetAsserted : (s.setArea a x).resetAsserted = s.resetAsserted := rfl
@[simp] theorem State.setArea_linkAsserted : (s.setArea a x).linkAsserted = s.linkAsserted := rfl
@[simp] theorem State.setArea_epochLevel : (s.setArea a x).epochLevel = s.epochLevel := rfl
@[simp] theorem State.setArea_upWaiting : (s.setArea a x).upWaiting = s.upWaiting := rfl
@[simp] theorem State.setArea_upSent : (s.setArea a x).upSent = s.upSent := rfl
@[simp] theorem State.setArea_downSent : (s.setArea a x).downSent = s.downSent := rfl
@[simp] theorem State.setArea_transit : (s.setArea a x).transit = s.transit := rfl
@[simp] theorem State.setArea_fwd : (s.setArea a x).fwd = s.fwd := rfl
@[simp] theorem State.setArea_credits : (s.setArea a x).credits = s.credits := rfl
@[simp] theorem State.setArea_issue : (s.setArea a x).issue = s.issue := rfl
@[simp] theorem State.setArea_lastGrant : (s.setArea a x).lastGrant = s.lastGrant := rfl
@[simp] theorem State.setArea_windows : (s.setArea a x).windows = s.windows := rfl
@[simp] theorem State.setArea_slots : (s.setArea a x).slots = s.slots := rfl
@[simp] theorem State.setArea_turn : (s.setArea a x).turn = s.turn := rfl
@[simp] theorem State.setArea_holds : (s.setArea a x).holds = s.holds := rfl
@[simp] theorem State.setArea_epochCounter : (s.setArea a x).epochCounter = s.epochCounter := rfl
@[simp] theorem State.setArea_epochDue : (s.setArea a x).epochDue = s.epochDue := rfl
@[simp] theorem State.setArea_events : (s.setArea a x).events = s.events := rfl
@[simp] theorem State.setArea_nextSeq : (s.setArea a x).nextSeq = s.nextSeq := rfl
@[simp] theorem State.setArea_lost : (s.setArea a x).lost = s.lost := rfl
@[simp] theorem State.setArea_frame : (s.setArea a x).frame = s.frame := rfl
@[simp] theorem State.setArea_shift : (s.setArea a x).shift = s.shift := rfl
@[simp] theorem State.setArea_received : (s.setArea a x).received = s.received := rfl
@[simp] theorem State.setArea_buffer : (s.setArea a x).buffer = s.buffer := rfl
@[simp] theorem State.setArea_masterRead : (s.setArea a x).masterRead = s.masterRead := rfl
@[simp] theorem State.setArea_softReset : (s.setArea a x).softReset = s.softReset := rfl
@[simp] theorem State.setArea_timeCount : (s.setArea a x).timeCount = s.timeCount := rfl

end

section
variable (s : State) (a : AIdx) (k : Nat)

@[simp] theorem State.lowerUsed_pending : (s.lowerUsed a k).pending = s.pending := rfl
@[simp] theorem State.lowerUsed_resetAsserted : (s.lowerUsed a k).resetAsserted = s.resetAsserted := rfl
@[simp] theorem State.lowerUsed_linkAsserted : (s.lowerUsed a k).linkAsserted = s.linkAsserted := rfl
@[simp] theorem State.lowerUsed_epochLevel : (s.lowerUsed a k).epochLevel = s.epochLevel := rfl
@[simp] theorem State.lowerUsed_upWaiting : (s.lowerUsed a k).upWaiting = s.upWaiting := rfl
@[simp] theorem State.lowerUsed_upSent : (s.lowerUsed a k).upSent = s.upSent := rfl
@[simp] theorem State.lowerUsed_downSent : (s.lowerUsed a k).downSent = s.downSent := rfl
@[simp] theorem State.lowerUsed_transit : (s.lowerUsed a k).transit = s.transit := rfl
@[simp] theorem State.lowerUsed_fwd : (s.lowerUsed a k).fwd = s.fwd := rfl
@[simp] theorem State.lowerUsed_credits : (s.lowerUsed a k).credits = s.credits := rfl
@[simp] theorem State.lowerUsed_issue : (s.lowerUsed a k).issue = s.issue := rfl
@[simp] theorem State.lowerUsed_lastGrant : (s.lowerUsed a k).lastGrant = s.lastGrant := rfl
@[simp] theorem State.lowerUsed_windows : (s.lowerUsed a k).windows = s.windows := rfl
@[simp] theorem State.lowerUsed_slots : (s.lowerUsed a k).slots = s.slots := rfl
@[simp] theorem State.lowerUsed_turn : (s.lowerUsed a k).turn = s.turn := rfl
@[simp] theorem State.lowerUsed_holds : (s.lowerUsed a k).holds = s.holds := rfl
@[simp] theorem State.lowerUsed_epochCounter : (s.lowerUsed a k).epochCounter = s.epochCounter := rfl
@[simp] theorem State.lowerUsed_epochDue : (s.lowerUsed a k).epochDue = s.epochDue := rfl
@[simp] theorem State.lowerUsed_events : (s.lowerUsed a k).events = s.events := rfl
@[simp] theorem State.lowerUsed_nextSeq : (s.lowerUsed a k).nextSeq = s.nextSeq := rfl
@[simp] theorem State.lowerUsed_lost : (s.lowerUsed a k).lost = s.lost := rfl
@[simp] theorem State.lowerUsed_frame : (s.lowerUsed a k).frame = s.frame := rfl
@[simp] theorem State.lowerUsed_shift : (s.lowerUsed a k).shift = s.shift := rfl
@[simp] theorem State.lowerUsed_received : (s.lowerUsed a k).received = s.received := rfl
@[simp] theorem State.lowerUsed_buffer : (s.lowerUsed a k).buffer = s.buffer := rfl
@[simp] theorem State.lowerUsed_masterRead : (s.lowerUsed a k).masterRead = s.masterRead := rfl
@[simp] theorem State.lowerUsed_softReset : (s.lowerUsed a k).softReset = s.softReset := rfl
@[simp] theorem State.lowerUsed_timeCount : (s.lowerUsed a k).timeCount = s.timeCount := rfl

end

section
variable (s : State) (t : RecNo) (x : Option Transit)

@[simp] theorem State.setRcd_pending : (s.setRcd t x).pending = s.pending := rfl
@[simp] theorem State.setRcd_resetAsserted : (s.setRcd t x).resetAsserted = s.resetAsserted := rfl
@[simp] theorem State.setRcd_linkAsserted : (s.setRcd t x).linkAsserted = s.linkAsserted := rfl
@[simp] theorem State.setRcd_epochLevel : (s.setRcd t x).epochLevel = s.epochLevel := rfl
@[simp] theorem State.setRcd_upWaiting : (s.setRcd t x).upWaiting = s.upWaiting := rfl
@[simp] theorem State.setRcd_upSent : (s.setRcd t x).upSent = s.upSent := rfl
@[simp] theorem State.setRcd_downSent : (s.setRcd t x).downSent = s.downSent := rfl
@[simp] theorem State.setRcd_fwd : (s.setRcd t x).fwd = s.fwd := rfl
@[simp] theorem State.setRcd_credits : (s.setRcd t x).credits = s.credits := rfl
@[simp] theorem State.setRcd_issue : (s.setRcd t x).issue = s.issue := rfl
@[simp] theorem State.setRcd_lastGrant : (s.setRcd t x).lastGrant = s.lastGrant := rfl
@[simp] theorem State.setRcd_windows : (s.setRcd t x).windows = s.windows := rfl
@[simp] theorem State.setRcd_areas : (s.setRcd t x).areas = s.areas := rfl
@[simp] theorem State.setRcd_slots : (s.setRcd t x).slots = s.slots := rfl
@[simp] theorem State.setRcd_turn : (s.setRcd t x).turn = s.turn := rfl
@[simp] theorem State.setRcd_holds : (s.setRcd t x).holds = s.holds := rfl
@[simp] theorem State.setRcd_epochCounter : (s.setRcd t x).epochCounter = s.epochCounter := rfl
@[simp] theorem State.setRcd_epochDue : (s.setRcd t x).epochDue = s.epochDue := rfl
@[simp] theorem State.setRcd_events : (s.setRcd t x).events = s.events := rfl
@[simp] theorem State.setRcd_nextSeq : (s.setRcd t x).nextSeq = s.nextSeq := rfl
@[simp] theorem State.setRcd_lost : (s.setRcd t x).lost = s.lost := rfl
@[simp] theorem State.setRcd_frame : (s.setRcd t x).frame = s.frame := rfl
@[simp] theorem State.setRcd_shift : (s.setRcd t x).shift = s.shift := rfl
@[simp] theorem State.setRcd_received : (s.setRcd t x).received = s.received := rfl
@[simp] theorem State.setRcd_buffer : (s.setRcd t x).buffer = s.buffer := rfl
@[simp] theorem State.setRcd_masterRead : (s.setRcd t x).masterRead = s.masterRead := rfl
@[simp] theorem State.setRcd_softReset : (s.setRcd t x).softReset = s.softReset := rfl
@[simp] theorem State.setRcd_timeCount : (s.setRcd t x).timeCount = s.timeCount := rfl

end

section
variable (s : State) (t : RecNo) (f : Transit → Transit)

@[simp] theorem State.modRcd_pending : (s.modRcd t f).pending = s.pending := rfl
@[simp] theorem State.modRcd_resetAsserted : (s.modRcd t f).resetAsserted = s.resetAsserted := rfl
@[simp] theorem State.modRcd_linkAsserted : (s.modRcd t f).linkAsserted = s.linkAsserted := rfl
@[simp] theorem State.modRcd_epochLevel : (s.modRcd t f).epochLevel = s.epochLevel := rfl
@[simp] theorem State.modRcd_upWaiting : (s.modRcd t f).upWaiting = s.upWaiting := rfl
@[simp] theorem State.modRcd_upSent : (s.modRcd t f).upSent = s.upSent := rfl
@[simp] theorem State.modRcd_downSent : (s.modRcd t f).downSent = s.downSent := rfl
@[simp] theorem State.modRcd_fwd : (s.modRcd t f).fwd = s.fwd := rfl
@[simp] theorem State.modRcd_credits : (s.modRcd t f).credits = s.credits := rfl
@[simp] theorem State.modRcd_issue : (s.modRcd t f).issue = s.issue := rfl
@[simp] theorem State.modRcd_lastGrant : (s.modRcd t f).lastGrant = s.lastGrant := rfl
@[simp] theorem State.modRcd_windows : (s.modRcd t f).windows = s.windows := rfl
@[simp] theorem State.modRcd_areas : (s.modRcd t f).areas = s.areas := rfl
@[simp] theorem State.modRcd_slots : (s.modRcd t f).slots = s.slots := rfl
@[simp] theorem State.modRcd_turn : (s.modRcd t f).turn = s.turn := rfl
@[simp] theorem State.modRcd_holds : (s.modRcd t f).holds = s.holds := rfl
@[simp] theorem State.modRcd_epochCounter : (s.modRcd t f).epochCounter = s.epochCounter := rfl
@[simp] theorem State.modRcd_epochDue : (s.modRcd t f).epochDue = s.epochDue := rfl
@[simp] theorem State.modRcd_events : (s.modRcd t f).events = s.events := rfl
@[simp] theorem State.modRcd_nextSeq : (s.modRcd t f).nextSeq = s.nextSeq := rfl
@[simp] theorem State.modRcd_lost : (s.modRcd t f).lost = s.lost := rfl
@[simp] theorem State.modRcd_frame : (s.modRcd t f).frame = s.frame := rfl
@[simp] theorem State.modRcd_shift : (s.modRcd t f).shift = s.shift := rfl
@[simp] theorem State.modRcd_received : (s.modRcd t f).received = s.received := rfl
@[simp] theorem State.modRcd_buffer : (s.modRcd t f).buffer = s.buffer := rfl
@[simp] theorem State.modRcd_masterRead : (s.modRcd t f).masterRead = s.masterRead := rfl
@[simp] theorem State.modRcd_softReset : (s.modRcd t f).softReset = s.softReset := rfl
@[simp] theorem State.modRcd_timeCount : (s.modRcd t f).timeCount = s.timeCount := rfl

end

section
variable (s : State) (c : CreditNo) (x : Credit)

@[simp] theorem State.setCredit_pending : (s.setCredit c x).pending = s.pending := rfl
@[simp] theorem State.setCredit_resetAsserted : (s.setCredit c x).resetAsserted = s.resetAsserted := rfl
@[simp] theorem State.setCredit_linkAsserted : (s.setCredit c x).linkAsserted = s.linkAsserted := rfl
@[simp] theorem State.setCredit_epochLevel : (s.setCredit c x).epochLevel = s.epochLevel := rfl
@[simp] theorem State.setCredit_upWaiting : (s.setCredit c x).upWaiting = s.upWaiting := rfl
@[simp] theorem State.setCredit_upSent : (s.setCredit c x).upSent = s.upSent := rfl
@[simp] theorem State.setCredit_downSent : (s.setCredit c x).downSent = s.downSent := rfl
@[simp] theorem State.setCredit_transit : (s.setCredit c x).transit = s.transit := rfl
@[simp] theorem State.setCredit_fwd : (s.setCredit c x).fwd = s.fwd := rfl
@[simp] theorem State.setCredit_issue : (s.setCredit c x).issue = s.issue := rfl
@[simp] theorem State.setCredit_lastGrant : (s.setCredit c x).lastGrant = s.lastGrant := rfl
@[simp] theorem State.setCredit_windows : (s.setCredit c x).windows = s.windows := rfl
@[simp] theorem State.setCredit_areas : (s.setCredit c x).areas = s.areas := rfl
@[simp] theorem State.setCredit_slots : (s.setCredit c x).slots = s.slots := rfl
@[simp] theorem State.setCredit_turn : (s.setCredit c x).turn = s.turn := rfl
@[simp] theorem State.setCredit_holds : (s.setCredit c x).holds = s.holds := rfl
@[simp] theorem State.setCredit_epochCounter : (s.setCredit c x).epochCounter = s.epochCounter := rfl
@[simp] theorem State.setCredit_epochDue : (s.setCredit c x).epochDue = s.epochDue := rfl
@[simp] theorem State.setCredit_events : (s.setCredit c x).events = s.events := rfl
@[simp] theorem State.setCredit_nextSeq : (s.setCredit c x).nextSeq = s.nextSeq := rfl
@[simp] theorem State.setCredit_lost : (s.setCredit c x).lost = s.lost := rfl
@[simp] theorem State.setCredit_frame : (s.setCredit c x).frame = s.frame := rfl
@[simp] theorem State.setCredit_shift : (s.setCredit c x).shift = s.shift := rfl
@[simp] theorem State.setCredit_received : (s.setCredit c x).received = s.received := rfl
@[simp] theorem State.setCredit_buffer : (s.setCredit c x).buffer = s.buffer := rfl
@[simp] theorem State.setCredit_masterRead : (s.setCredit c x).masterRead = s.masterRead := rfl
@[simp] theorem State.setCredit_softReset : (s.setCredit c x).softReset = s.softReset := rfl
@[simp] theorem State.setCredit_timeCount : (s.setCredit c x).timeCount = s.timeCount := rfl

end

section
variable (s : State) (w : WIdx)

@[simp] theorem State.windowTrigger_pending : (s.windowTrigger w).pending = s.pending := rfl
@[simp] theorem State.windowTrigger_resetAsserted : (s.windowTrigger w).resetAsserted = s.resetAsserted := rfl
@[simp] theorem State.windowTrigger_linkAsserted : (s.windowTrigger w).linkAsserted = s.linkAsserted := rfl
@[simp] theorem State.windowTrigger_epochLevel : (s.windowTrigger w).epochLevel = s.epochLevel := rfl
@[simp] theorem State.windowTrigger_upWaiting : (s.windowTrigger w).upWaiting = s.upWaiting := rfl
@[simp] theorem State.windowTrigger_upSent : (s.windowTrigger w).upSent = s.upSent := rfl
@[simp] theorem State.windowTrigger_downSent : (s.windowTrigger w).downSent = s.downSent := rfl
@[simp] theorem State.windowTrigger_transit : (s.windowTrigger w).transit = s.transit := rfl
@[simp] theorem State.windowTrigger_fwd : (s.windowTrigger w).fwd = s.fwd := rfl
@[simp] theorem State.windowTrigger_credits : (s.windowTrigger w).credits = s.credits := rfl
@[simp] theorem State.windowTrigger_issue : (s.windowTrigger w).issue = s.issue := rfl
@[simp] theorem State.windowTrigger_lastGrant : (s.windowTrigger w).lastGrant = s.lastGrant := rfl
@[simp] theorem State.windowTrigger_windows : (s.windowTrigger w).windows = s.windows := rfl
@[simp] theorem State.windowTrigger_areas : (s.windowTrigger w).areas = s.areas := rfl
@[simp] theorem State.windowTrigger_slots : (s.windowTrigger w).slots = s.slots := rfl
@[simp] theorem State.windowTrigger_turn : (s.windowTrigger w).turn = s.turn := rfl
@[simp] theorem State.windowTrigger_epochCounter : (s.windowTrigger w).epochCounter = s.epochCounter := rfl
@[simp] theorem State.windowTrigger_epochDue : (s.windowTrigger w).epochDue = s.epochDue := rfl
@[simp] theorem State.windowTrigger_events : (s.windowTrigger w).events = s.events := rfl
@[simp] theorem State.windowTrigger_nextSeq : (s.windowTrigger w).nextSeq = s.nextSeq := rfl
@[simp] theorem State.windowTrigger_lost : (s.windowTrigger w).lost = s.lost := rfl
@[simp] theorem State.windowTrigger_frame : (s.windowTrigger w).frame = s.frame := rfl
@[simp] theorem State.windowTrigger_shift : (s.windowTrigger w).shift = s.shift := rfl
@[simp] theorem State.windowTrigger_received : (s.windowTrigger w).received = s.received := rfl
@[simp] theorem State.windowTrigger_buffer : (s.windowTrigger w).buffer = s.buffer := rfl
@[simp] theorem State.windowTrigger_masterRead : (s.windowTrigger w).masterRead = s.masterRead := rfl
@[simp] theorem State.windowTrigger_softReset : (s.windowTrigger w).softReset = s.softReset := rfl
@[simp] theorem State.windowTrigger_timeCount : (s.windowTrigger w).timeCount = s.timeCount := rfl

end

section
variable (s : State) (a : AIdx)

@[simp] theorem State.areaTrigger_pending : (s.areaTrigger a).pending = s.pending := rfl
@[simp] theorem State.areaTrigger_resetAsserted : (s.areaTrigger a).resetAsserted = s.resetAsserted := rfl
@[simp] theorem State.areaTrigger_linkAsserted : (s.areaTrigger a).linkAsserted = s.linkAsserted := rfl
@[simp] theorem State.areaTrigger_epochLevel : (s.areaTrigger a).epochLevel = s.epochLevel := rfl
@[simp] theorem State.areaTrigger_upWaiting : (s.areaTrigger a).upWaiting = s.upWaiting := rfl
@[simp] theorem State.areaTrigger_upSent : (s.areaTrigger a).upSent = s.upSent := rfl
@[simp] theorem State.areaTrigger_downSent : (s.areaTrigger a).downSent = s.downSent := rfl
@[simp] theorem State.areaTrigger_transit : (s.areaTrigger a).transit = s.transit := rfl
@[simp] theorem State.areaTrigger_fwd : (s.areaTrigger a).fwd = s.fwd := rfl
@[simp] theorem State.areaTrigger_credits : (s.areaTrigger a).credits = s.credits := rfl
@[simp] theorem State.areaTrigger_issue : (s.areaTrigger a).issue = s.issue := rfl
@[simp] theorem State.areaTrigger_lastGrant : (s.areaTrigger a).lastGrant = s.lastGrant := rfl
@[simp] theorem State.areaTrigger_windows : (s.areaTrigger a).windows = s.windows := rfl
@[simp] theorem State.areaTrigger_areas : (s.areaTrigger a).areas = s.areas := rfl
@[simp] theorem State.areaTrigger_slots : (s.areaTrigger a).slots = s.slots := rfl
@[simp] theorem State.areaTrigger_turn : (s.areaTrigger a).turn = s.turn := rfl
@[simp] theorem State.areaTrigger_epochCounter : (s.areaTrigger a).epochCounter = s.epochCounter := rfl
@[simp] theorem State.areaTrigger_epochDue : (s.areaTrigger a).epochDue = s.epochDue := rfl
@[simp] theorem State.areaTrigger_events : (s.areaTrigger a).events = s.events := rfl
@[simp] theorem State.areaTrigger_nextSeq : (s.areaTrigger a).nextSeq = s.nextSeq := rfl
@[simp] theorem State.areaTrigger_lost : (s.areaTrigger a).lost = s.lost := rfl
@[simp] theorem State.areaTrigger_frame : (s.areaTrigger a).frame = s.frame := rfl
@[simp] theorem State.areaTrigger_shift : (s.areaTrigger a).shift = s.shift := rfl
@[simp] theorem State.areaTrigger_received : (s.areaTrigger a).received = s.received := rfl
@[simp] theorem State.areaTrigger_buffer : (s.areaTrigger a).buffer = s.buffer := rfl
@[simp] theorem State.areaTrigger_masterRead : (s.areaTrigger a).masterRead = s.masterRead := rfl
@[simp] theorem State.areaTrigger_softReset : (s.areaTrigger a).softReset = s.softReset := rfl
@[simp] theorem State.areaTrigger_timeCount : (s.areaTrigger a).timeCount = s.timeCount := rfl

end

section
variable (s : State) (k : HoldNo)

@[simp] theorem State.dropHold_pending : (s.dropHold k).pending = s.pending := rfl
@[simp] theorem State.dropHold_resetAsserted : (s.dropHold k).resetAsserted = s.resetAsserted := rfl
@[simp] theorem State.dropHold_linkAsserted : (s.dropHold k).linkAsserted = s.linkAsserted := rfl
@[simp] theorem State.dropHold_epochLevel : (s.dropHold k).epochLevel = s.epochLevel := rfl
@[simp] theorem State.dropHold_upWaiting : (s.dropHold k).upWaiting = s.upWaiting := rfl
@[simp] theorem State.dropHold_upSent : (s.dropHold k).upSent = s.upSent := rfl
@[simp] theorem State.dropHold_downSent : (s.dropHold k).downSent = s.downSent := rfl
@[simp] theorem State.dropHold_transit : (s.dropHold k).transit = s.transit := rfl
@[simp] theorem State.dropHold_fwd : (s.dropHold k).fwd = s.fwd := rfl
@[simp] theorem State.dropHold_credits : (s.dropHold k).credits = s.credits := rfl
@[simp] theorem State.dropHold_issue : (s.dropHold k).issue = s.issue := rfl
@[simp] theorem State.dropHold_lastGrant : (s.dropHold k).lastGrant = s.lastGrant := rfl
@[simp] theorem State.dropHold_windows : (s.dropHold k).windows = s.windows := rfl
@[simp] theorem State.dropHold_areas : (s.dropHold k).areas = s.areas := rfl
@[simp] theorem State.dropHold_slots : (s.dropHold k).slots = s.slots := rfl
@[simp] theorem State.dropHold_turn : (s.dropHold k).turn = s.turn := rfl
@[simp] theorem State.dropHold_epochCounter : (s.dropHold k).epochCounter = s.epochCounter := rfl
@[simp] theorem State.dropHold_epochDue : (s.dropHold k).epochDue = s.epochDue := rfl
@[simp] theorem State.dropHold_events : (s.dropHold k).events = s.events := rfl
@[simp] theorem State.dropHold_nextSeq : (s.dropHold k).nextSeq = s.nextSeq := rfl
@[simp] theorem State.dropHold_lost : (s.dropHold k).lost = s.lost := rfl
@[simp] theorem State.dropHold_frame : (s.dropHold k).frame = s.frame := rfl
@[simp] theorem State.dropHold_shift : (s.dropHold k).shift = s.shift := rfl
@[simp] theorem State.dropHold_received : (s.dropHold k).received = s.received := rfl
@[simp] theorem State.dropHold_buffer : (s.dropHold k).buffer = s.buffer := rfl
@[simp] theorem State.dropHold_masterRead : (s.dropHold k).masterRead = s.masterRead := rfl
@[simp] theorem State.dropHold_softReset : (s.dropHold k).softReset = s.softReset := rfl
@[simp] theorem State.dropHold_timeCount : (s.dropHold k).timeCount = s.timeCount := rfl

end

section
variable (s : State) (w : WIdx) (g : Group)

@[simp] theorem State.setOldest_pending : (s.setOldest w g).pending = s.pending := rfl
@[simp] theorem State.setOldest_resetAsserted : (s.setOldest w g).resetAsserted = s.resetAsserted := rfl
@[simp] theorem State.setOldest_linkAsserted : (s.setOldest w g).linkAsserted = s.linkAsserted := rfl
@[simp] theorem State.setOldest_epochLevel : (s.setOldest w g).epochLevel = s.epochLevel := rfl
@[simp] theorem State.setOldest_upWaiting : (s.setOldest w g).upWaiting = s.upWaiting := rfl
@[simp] theorem State.setOldest_upSent : (s.setOldest w g).upSent = s.upSent := rfl
@[simp] theorem State.setOldest_downSent : (s.setOldest w g).downSent = s.downSent := rfl
@[simp] theorem State.setOldest_transit : (s.setOldest w g).transit = s.transit := rfl
@[simp] theorem State.setOldest_fwd : (s.setOldest w g).fwd = s.fwd := rfl
@[simp] theorem State.setOldest_credits : (s.setOldest w g).credits = s.credits := rfl
@[simp] theorem State.setOldest_issue : (s.setOldest w g).issue = s.issue := rfl
@[simp] theorem State.setOldest_lastGrant : (s.setOldest w g).lastGrant = s.lastGrant := rfl
@[simp] theorem State.setOldest_areas : (s.setOldest w g).areas = s.areas := rfl
@[simp] theorem State.setOldest_slots : (s.setOldest w g).slots = s.slots := rfl
@[simp] theorem State.setOldest_turn : (s.setOldest w g).turn = s.turn := rfl
@[simp] theorem State.setOldest_holds : (s.setOldest w g).holds = s.holds := rfl
@[simp] theorem State.setOldest_epochCounter : (s.setOldest w g).epochCounter = s.epochCounter := rfl
@[simp] theorem State.setOldest_epochDue : (s.setOldest w g).epochDue = s.epochDue := rfl
@[simp] theorem State.setOldest_events : (s.setOldest w g).events = s.events := rfl
@[simp] theorem State.setOldest_nextSeq : (s.setOldest w g).nextSeq = s.nextSeq := rfl
@[simp] theorem State.setOldest_lost : (s.setOldest w g).lost = s.lost := rfl
@[simp] theorem State.setOldest_frame : (s.setOldest w g).frame = s.frame := rfl
@[simp] theorem State.setOldest_shift : (s.setOldest w g).shift = s.shift := rfl
@[simp] theorem State.setOldest_received : (s.setOldest w g).received = s.received := rfl
@[simp] theorem State.setOldest_buffer : (s.setOldest w g).buffer = s.buffer := rfl
@[simp] theorem State.setOldest_masterRead : (s.setOldest w g).masterRead = s.masterRead := rfl
@[simp] theorem State.setOldest_softReset : (s.setOldest w g).softReset = s.softReset := rfl
@[simp] theorem State.setOldest_timeCount : (s.setOldest w g).timeCount = s.timeCount := rfl

end

section
variable (s : State) (w : WIdx) (g : Group)

@[simp] theorem State.setYoungest_pending : (s.setYoungest w g).pending = s.pending := rfl
@[simp] theorem State.setYoungest_resetAsserted : (s.setYoungest w g).resetAsserted = s.resetAsserted := rfl
@[simp] theorem State.setYoungest_linkAsserted : (s.setYoungest w g).linkAsserted = s.linkAsserted := rfl
@[simp] theorem State.setYoungest_epochLevel : (s.setYoungest w g).epochLevel = s.epochLevel := rfl
@[simp] theorem State.setYoungest_upWaiting : (s.setYoungest w g).upWaiting = s.upWaiting := rfl
@[simp] theorem State.setYoungest_upSent : (s.setYoungest w g).upSent = s.upSent := rfl
@[simp] theorem State.setYoungest_downSent : (s.setYoungest w g).downSent = s.downSent := rfl
@[simp] theorem State.setYoungest_transit : (s.setYoungest w g).transit = s.transit := rfl
@[simp] theorem State.setYoungest_fwd : (s.setYoungest w g).fwd = s.fwd := rfl
@[simp] theorem State.setYoungest_credits : (s.setYoungest w g).credits = s.credits := rfl
@[simp] theorem State.setYoungest_issue : (s.setYoungest w g).issue = s.issue := rfl
@[simp] theorem State.setYoungest_lastGrant : (s.setYoungest w g).lastGrant = s.lastGrant := rfl
@[simp] theorem State.setYoungest_areas : (s.setYoungest w g).areas = s.areas := rfl
@[simp] theorem State.setYoungest_slots : (s.setYoungest w g).slots = s.slots := rfl
@[simp] theorem State.setYoungest_turn : (s.setYoungest w g).turn = s.turn := rfl
@[simp] theorem State.setYoungest_holds : (s.setYoungest w g).holds = s.holds := rfl
@[simp] theorem State.setYoungest_epochCounter : (s.setYoungest w g).epochCounter = s.epochCounter := rfl
@[simp] theorem State.setYoungest_epochDue : (s.setYoungest w g).epochDue = s.epochDue := rfl
@[simp] theorem State.setYoungest_events : (s.setYoungest w g).events = s.events := rfl
@[simp] theorem State.setYoungest_nextSeq : (s.setYoungest w g).nextSeq = s.nextSeq := rfl
@[simp] theorem State.setYoungest_lost : (s.setYoungest w g).lost = s.lost := rfl
@[simp] theorem State.setYoungest_frame : (s.setYoungest w g).frame = s.frame := rfl
@[simp] theorem State.setYoungest_shift : (s.setYoungest w g).shift = s.shift := rfl
@[simp] theorem State.setYoungest_received : (s.setYoungest w g).received = s.received := rfl
@[simp] theorem State.setYoungest_buffer : (s.setYoungest w g).buffer = s.buffer := rfl
@[simp] theorem State.setYoungest_masterRead : (s.setYoungest w g).masterRead = s.masterRead := rfl
@[simp] theorem State.setYoungest_softReset : (s.setYoungest w g).softReset = s.softReset := rfl
@[simp] theorem State.setYoungest_timeCount : (s.setYoungest w g).timeCount = s.timeCount := rfl

end

section
variable (s : State) (w : WIdx) (g : Group)

@[simp] theorem State.removeGroup_pending : (s.removeGroup w g).pending = s.pending := rfl
@[simp] theorem State.removeGroup_resetAsserted : (s.removeGroup w g).resetAsserted = s.resetAsserted := rfl
@[simp] theorem State.removeGroup_linkAsserted : (s.removeGroup w g).linkAsserted = s.linkAsserted := rfl
@[simp] theorem State.removeGroup_epochLevel : (s.removeGroup w g).epochLevel = s.epochLevel := rfl
@[simp] theorem State.removeGroup_upWaiting : (s.removeGroup w g).upWaiting = s.upWaiting := rfl
@[simp] theorem State.removeGroup_upSent : (s.removeGroup w g).upSent = s.upSent := rfl
@[simp] theorem State.removeGroup_downSent : (s.removeGroup w g).downSent = s.downSent := rfl
@[simp] theorem State.removeGroup_transit : (s.removeGroup w g).transit = s.transit := rfl
@[simp] theorem State.removeGroup_fwd : (s.removeGroup w g).fwd = s.fwd := rfl
@[simp] theorem State.removeGroup_credits : (s.removeGroup w g).credits = s.credits := rfl
@[simp] theorem State.removeGroup_issue : (s.removeGroup w g).issue = s.issue := rfl
@[simp] theorem State.removeGroup_lastGrant : (s.removeGroup w g).lastGrant = s.lastGrant := rfl
@[simp] theorem State.removeGroup_areas : (s.removeGroup w g).areas = s.areas := rfl
@[simp] theorem State.removeGroup_slots : (s.removeGroup w g).slots = s.slots := rfl
@[simp] theorem State.removeGroup_turn : (s.removeGroup w g).turn = s.turn := rfl
@[simp] theorem State.removeGroup_holds : (s.removeGroup w g).holds = s.holds := rfl
@[simp] theorem State.removeGroup_epochCounter : (s.removeGroup w g).epochCounter = s.epochCounter := rfl
@[simp] theorem State.removeGroup_epochDue : (s.removeGroup w g).epochDue = s.epochDue := rfl
@[simp] theorem State.removeGroup_events : (s.removeGroup w g).events = s.events := rfl
@[simp] theorem State.removeGroup_nextSeq : (s.removeGroup w g).nextSeq = s.nextSeq := rfl
@[simp] theorem State.removeGroup_lost : (s.removeGroup w g).lost = s.lost := rfl
@[simp] theorem State.removeGroup_frame : (s.removeGroup w g).frame = s.frame := rfl
@[simp] theorem State.removeGroup_shift : (s.removeGroup w g).shift = s.shift := rfl
@[simp] theorem State.removeGroup_received : (s.removeGroup w g).received = s.received := rfl
@[simp] theorem State.removeGroup_buffer : (s.removeGroup w g).buffer = s.buffer := rfl
@[simp] theorem State.removeGroup_masterRead : (s.removeGroup w g).masterRead = s.masterRead := rfl
@[simp] theorem State.removeGroup_softReset : (s.removeGroup w g).softReset = s.softReset := rfl
@[simp] theorem State.removeGroup_timeCount : (s.removeGroup w g).timeCount = s.timeCount := rfl

end

section
variable (s : State) (w : WIdx)

@[simp] theorem State.bumpPublished_pending : (s.bumpPublished w).pending = s.pending := rfl
@[simp] theorem State.bumpPublished_resetAsserted : (s.bumpPublished w).resetAsserted = s.resetAsserted := rfl
@[simp] theorem State.bumpPublished_linkAsserted : (s.bumpPublished w).linkAsserted = s.linkAsserted := rfl
@[simp] theorem State.bumpPublished_epochLevel : (s.bumpPublished w).epochLevel = s.epochLevel := rfl
@[simp] theorem State.bumpPublished_upWaiting : (s.bumpPublished w).upWaiting = s.upWaiting := rfl
@[simp] theorem State.bumpPublished_upSent : (s.bumpPublished w).upSent = s.upSent := rfl
@[simp] theorem State.bumpPublished_downSent : (s.bumpPublished w).downSent = s.downSent := rfl
@[simp] theorem State.bumpPublished_transit : (s.bumpPublished w).transit = s.transit := rfl
@[simp] theorem State.bumpPublished_fwd : (s.bumpPublished w).fwd = s.fwd := rfl
@[simp] theorem State.bumpPublished_credits : (s.bumpPublished w).credits = s.credits := rfl
@[simp] theorem State.bumpPublished_issue : (s.bumpPublished w).issue = s.issue := rfl
@[simp] theorem State.bumpPublished_lastGrant : (s.bumpPublished w).lastGrant = s.lastGrant := rfl
@[simp] theorem State.bumpPublished_areas : (s.bumpPublished w).areas = s.areas := rfl
@[simp] theorem State.bumpPublished_slots : (s.bumpPublished w).slots = s.slots := rfl
@[simp] theorem State.bumpPublished_turn : (s.bumpPublished w).turn = s.turn := rfl
@[simp] theorem State.bumpPublished_holds : (s.bumpPublished w).holds = s.holds := rfl
@[simp] theorem State.bumpPublished_epochCounter : (s.bumpPublished w).epochCounter = s.epochCounter := rfl
@[simp] theorem State.bumpPublished_epochDue : (s.bumpPublished w).epochDue = s.epochDue := rfl
@[simp] theorem State.bumpPublished_events : (s.bumpPublished w).events = s.events := rfl
@[simp] theorem State.bumpPublished_nextSeq : (s.bumpPublished w).nextSeq = s.nextSeq := rfl
@[simp] theorem State.bumpPublished_lost : (s.bumpPublished w).lost = s.lost := rfl
@[simp] theorem State.bumpPublished_frame : (s.bumpPublished w).frame = s.frame := rfl
@[simp] theorem State.bumpPublished_shift : (s.bumpPublished w).shift = s.shift := rfl
@[simp] theorem State.bumpPublished_received : (s.bumpPublished w).received = s.received := rfl
@[simp] theorem State.bumpPublished_buffer : (s.bumpPublished w).buffer = s.buffer := rfl
@[simp] theorem State.bumpPublished_masterRead : (s.bumpPublished w).masterRead = s.masterRead := rfl
@[simp] theorem State.bumpPublished_softReset : (s.bumpPublished w).softReset = s.softReset := rfl
@[simp] theorem State.bumpPublished_timeCount : (s.bumpPublished w).timeCount = s.timeCount := rfl

end

section
variable (s : State) (w : WIdx)

@[simp] theorem State.bumpDiscarded_pending : (s.bumpDiscarded w).pending = s.pending := rfl
@[simp] theorem State.bumpDiscarded_resetAsserted : (s.bumpDiscarded w).resetAsserted = s.resetAsserted := rfl
@[simp] theorem State.bumpDiscarded_linkAsserted : (s.bumpDiscarded w).linkAsserted = s.linkAsserted := rfl
@[simp] theorem State.bumpDiscarded_epochLevel : (s.bumpDiscarded w).epochLevel = s.epochLevel := rfl
@[simp] theorem State.bumpDiscarded_upWaiting : (s.bumpDiscarded w).upWaiting = s.upWaiting := rfl
@[simp] theorem State.bumpDiscarded_upSent : (s.bumpDiscarded w).upSent = s.upSent := rfl
@[simp] theorem State.bumpDiscarded_downSent : (s.bumpDiscarded w).downSent = s.downSent := rfl
@[simp] theorem State.bumpDiscarded_transit : (s.bumpDiscarded w).transit = s.transit := rfl
@[simp] theorem State.bumpDiscarded_fwd : (s.bumpDiscarded w).fwd = s.fwd := rfl
@[simp] theorem State.bumpDiscarded_credits : (s.bumpDiscarded w).credits = s.credits := rfl
@[simp] theorem State.bumpDiscarded_issue : (s.bumpDiscarded w).issue = s.issue := rfl
@[simp] theorem State.bumpDiscarded_lastGrant : (s.bumpDiscarded w).lastGrant = s.lastGrant := rfl
@[simp] theorem State.bumpDiscarded_areas : (s.bumpDiscarded w).areas = s.areas := rfl
@[simp] theorem State.bumpDiscarded_slots : (s.bumpDiscarded w).slots = s.slots := rfl
@[simp] theorem State.bumpDiscarded_turn : (s.bumpDiscarded w).turn = s.turn := rfl
@[simp] theorem State.bumpDiscarded_holds : (s.bumpDiscarded w).holds = s.holds := rfl
@[simp] theorem State.bumpDiscarded_epochCounter : (s.bumpDiscarded w).epochCounter = s.epochCounter := rfl
@[simp] theorem State.bumpDiscarded_epochDue : (s.bumpDiscarded w).epochDue = s.epochDue := rfl
@[simp] theorem State.bumpDiscarded_events : (s.bumpDiscarded w).events = s.events := rfl
@[simp] theorem State.bumpDiscarded_nextSeq : (s.bumpDiscarded w).nextSeq = s.nextSeq := rfl
@[simp] theorem State.bumpDiscarded_lost : (s.bumpDiscarded w).lost = s.lost := rfl
@[simp] theorem State.bumpDiscarded_frame : (s.bumpDiscarded w).frame = s.frame := rfl
@[simp] theorem State.bumpDiscarded_shift : (s.bumpDiscarded w).shift = s.shift := rfl
@[simp] theorem State.bumpDiscarded_received : (s.bumpDiscarded w).received = s.received := rfl
@[simp] theorem State.bumpDiscarded_buffer : (s.bumpDiscarded w).buffer = s.buffer := rfl
@[simp] theorem State.bumpDiscarded_masterRead : (s.bumpDiscarded w).masterRead = s.masterRead := rfl
@[simp] theorem State.bumpDiscarded_softReset : (s.bumpDiscarded w).softReset = s.softReset := rfl
@[simp] theorem State.bumpDiscarded_timeCount : (s.bumpDiscarded w).timeCount = s.timeCount := rfl

end

section
variable (s : State) (w : WIdx)

@[simp] theorem State.bumpBroken_pending : (s.bumpBroken w).pending = s.pending := rfl
@[simp] theorem State.bumpBroken_resetAsserted : (s.bumpBroken w).resetAsserted = s.resetAsserted := rfl
@[simp] theorem State.bumpBroken_linkAsserted : (s.bumpBroken w).linkAsserted = s.linkAsserted := rfl
@[simp] theorem State.bumpBroken_epochLevel : (s.bumpBroken w).epochLevel = s.epochLevel := rfl
@[simp] theorem State.bumpBroken_upWaiting : (s.bumpBroken w).upWaiting = s.upWaiting := rfl
@[simp] theorem State.bumpBroken_upSent : (s.bumpBroken w).upSent = s.upSent := rfl
@[simp] theorem State.bumpBroken_downSent : (s.bumpBroken w).downSent = s.downSent := rfl
@[simp] theorem State.bumpBroken_transit : (s.bumpBroken w).transit = s.transit := rfl
@[simp] theorem State.bumpBroken_fwd : (s.bumpBroken w).fwd = s.fwd := rfl
@[simp] theorem State.bumpBroken_credits : (s.bumpBroken w).credits = s.credits := rfl
@[simp] theorem State.bumpBroken_issue : (s.bumpBroken w).issue = s.issue := rfl
@[simp] theorem State.bumpBroken_lastGrant : (s.bumpBroken w).lastGrant = s.lastGrant := rfl
@[simp] theorem State.bumpBroken_areas : (s.bumpBroken w).areas = s.areas := rfl
@[simp] theorem State.bumpBroken_slots : (s.bumpBroken w).slots = s.slots := rfl
@[simp] theorem State.bumpBroken_turn : (s.bumpBroken w).turn = s.turn := rfl
@[simp] theorem State.bumpBroken_holds : (s.bumpBroken w).holds = s.holds := rfl
@[simp] theorem State.bumpBroken_epochCounter : (s.bumpBroken w).epochCounter = s.epochCounter := rfl
@[simp] theorem State.bumpBroken_epochDue : (s.bumpBroken w).epochDue = s.epochDue := rfl
@[simp] theorem State.bumpBroken_events : (s.bumpBroken w).events = s.events := rfl
@[simp] theorem State.bumpBroken_nextSeq : (s.bumpBroken w).nextSeq = s.nextSeq := rfl
@[simp] theorem State.bumpBroken_lost : (s.bumpBroken w).lost = s.lost := rfl
@[simp] theorem State.bumpBroken_frame : (s.bumpBroken w).frame = s.frame := rfl
@[simp] theorem State.bumpBroken_shift : (s.bumpBroken w).shift = s.shift := rfl
@[simp] theorem State.bumpBroken_received : (s.bumpBroken w).received = s.received := rfl
@[simp] theorem State.bumpBroken_buffer : (s.bumpBroken w).buffer = s.buffer := rfl
@[simp] theorem State.bumpBroken_masterRead : (s.bumpBroken w).masterRead = s.masterRead := rfl
@[simp] theorem State.bumpBroken_softReset : (s.bumpBroken w).softReset = s.softReset := rfl
@[simp] theorem State.bumpBroken_timeCount : (s.bumpBroken w).timeCount = s.timeCount := rfl

end

section
variable (s : State) (w : WIdx)

@[simp] theorem State.bumpRefused_pending : (s.bumpRefused w).pending = s.pending := rfl
@[simp] theorem State.bumpRefused_resetAsserted : (s.bumpRefused w).resetAsserted = s.resetAsserted := rfl
@[simp] theorem State.bumpRefused_linkAsserted : (s.bumpRefused w).linkAsserted = s.linkAsserted := rfl
@[simp] theorem State.bumpRefused_epochLevel : (s.bumpRefused w).epochLevel = s.epochLevel := rfl
@[simp] theorem State.bumpRefused_upWaiting : (s.bumpRefused w).upWaiting = s.upWaiting := rfl
@[simp] theorem State.bumpRefused_upSent : (s.bumpRefused w).upSent = s.upSent := rfl
@[simp] theorem State.bumpRefused_downSent : (s.bumpRefused w).downSent = s.downSent := rfl
@[simp] theorem State.bumpRefused_transit : (s.bumpRefused w).transit = s.transit := rfl
@[simp] theorem State.bumpRefused_fwd : (s.bumpRefused w).fwd = s.fwd := rfl
@[simp] theorem State.bumpRefused_credits : (s.bumpRefused w).credits = s.credits := rfl
@[simp] theorem State.bumpRefused_issue : (s.bumpRefused w).issue = s.issue := rfl
@[simp] theorem State.bumpRefused_lastGrant : (s.bumpRefused w).lastGrant = s.lastGrant := rfl
@[simp] theorem State.bumpRefused_areas : (s.bumpRefused w).areas = s.areas := rfl
@[simp] theorem State.bumpRefused_slots : (s.bumpRefused w).slots = s.slots := rfl
@[simp] theorem State.bumpRefused_turn : (s.bumpRefused w).turn = s.turn := rfl
@[simp] theorem State.bumpRefused_holds : (s.bumpRefused w).holds = s.holds := rfl
@[simp] theorem State.bumpRefused_epochCounter : (s.bumpRefused w).epochCounter = s.epochCounter := rfl
@[simp] theorem State.bumpRefused_epochDue : (s.bumpRefused w).epochDue = s.epochDue := rfl
@[simp] theorem State.bumpRefused_events : (s.bumpRefused w).events = s.events := rfl
@[simp] theorem State.bumpRefused_nextSeq : (s.bumpRefused w).nextSeq = s.nextSeq := rfl
@[simp] theorem State.bumpRefused_lost : (s.bumpRefused w).lost = s.lost := rfl
@[simp] theorem State.bumpRefused_frame : (s.bumpRefused w).frame = s.frame := rfl
@[simp] theorem State.bumpRefused_shift : (s.bumpRefused w).shift = s.shift := rfl
@[simp] theorem State.bumpRefused_received : (s.bumpRefused w).received = s.received := rfl
@[simp] theorem State.bumpRefused_buffer : (s.bumpRefused w).buffer = s.buffer := rfl
@[simp] theorem State.bumpRefused_masterRead : (s.bumpRefused w).masterRead = s.masterRead := rfl
@[simp] theorem State.bumpRefused_softReset : (s.bumpRefused w).softReset = s.softReset := rfl
@[simp] theorem State.bumpRefused_timeCount : (s.bumpRefused w).timeCount = s.timeCount := rfl

end

section
variable (s : State)

@[simp] theorem State.clearChannel_pending : (s.clearChannel).pending = s.pending := rfl
@[simp] theorem State.clearChannel_resetAsserted : (s.clearChannel).resetAsserted = s.resetAsserted := rfl
@[simp] theorem State.clearChannel_linkAsserted : (s.clearChannel).linkAsserted = s.linkAsserted := rfl
@[simp] theorem State.clearChannel_epochLevel : (s.clearChannel).epochLevel = s.epochLevel := rfl
@[simp] theorem State.clearChannel_upSent : (s.clearChannel).upSent = s.upSent := rfl
@[simp] theorem State.clearChannel_downSent : (s.clearChannel).downSent = s.downSent := rfl
@[simp] theorem State.clearChannel_transit : (s.clearChannel).transit = s.transit := rfl
@[simp] theorem State.clearChannel_fwd : (s.clearChannel).fwd = s.fwd := rfl
@[simp] theorem State.clearChannel_credits : (s.clearChannel).credits = s.credits := rfl
@[simp] theorem State.clearChannel_issue : (s.clearChannel).issue = s.issue := rfl
@[simp] theorem State.clearChannel_lastGrant : (s.clearChannel).lastGrant = s.lastGrant := rfl
@[simp] theorem State.clearChannel_windows : (s.clearChannel).windows = s.windows := rfl
@[simp] theorem State.clearChannel_areas : (s.clearChannel).areas = s.areas := rfl
@[simp] theorem State.clearChannel_slots : (s.clearChannel).slots = s.slots := rfl
@[simp] theorem State.clearChannel_turn : (s.clearChannel).turn = s.turn := rfl
@[simp] theorem State.clearChannel_holds : (s.clearChannel).holds = s.holds := rfl
@[simp] theorem State.clearChannel_epochCounter : (s.clearChannel).epochCounter = s.epochCounter := rfl
@[simp] theorem State.clearChannel_epochDue : (s.clearChannel).epochDue = s.epochDue := rfl
@[simp] theorem State.clearChannel_events : (s.clearChannel).events = s.events := rfl
@[simp] theorem State.clearChannel_nextSeq : (s.clearChannel).nextSeq = s.nextSeq := rfl
@[simp] theorem State.clearChannel_lost : (s.clearChannel).lost = s.lost := rfl
@[simp] theorem State.clearChannel_frame : (s.clearChannel).frame = s.frame := rfl
@[simp] theorem State.clearChannel_shift : (s.clearChannel).shift = s.shift := rfl
@[simp] theorem State.clearChannel_received : (s.clearChannel).received = s.received := rfl
@[simp] theorem State.clearChannel_buffer : (s.clearChannel).buffer = s.buffer := rfl
@[simp] theorem State.clearChannel_masterRead : (s.clearChannel).masterRead = s.masterRead := rfl
@[simp] theorem State.clearChannel_softReset : (s.clearChannel).softReset = s.softReset := rfl
@[simp] theorem State.clearChannel_timeCount : (s.clearChannel).timeCount = s.timeCount := rfl

end

section
variable (s : State) (t : RecNo) (res : Result) (d : Option LineData)

@[simp] theorem State.answerRcd_pending : (s.answerRcd t res d).pending = s.pending := rfl
@[simp] theorem State.answerRcd_resetAsserted : (s.answerRcd t res d).resetAsserted = s.resetAsserted := rfl
@[simp] theorem State.answerRcd_linkAsserted : (s.answerRcd t res d).linkAsserted = s.linkAsserted := rfl
@[simp] theorem State.answerRcd_epochLevel : (s.answerRcd t res d).epochLevel = s.epochLevel := rfl
@[simp] theorem State.answerRcd_upWaiting : (s.answerRcd t res d).upWaiting = s.upWaiting := rfl
@[simp] theorem State.answerRcd_upSent : (s.answerRcd t res d).upSent = s.upSent := rfl
@[simp] theorem State.answerRcd_downSent : (s.answerRcd t res d).downSent = s.downSent := rfl
@[simp] theorem State.answerRcd_fwd : (s.answerRcd t res d).fwd = s.fwd := rfl
@[simp] theorem State.answerRcd_credits : (s.answerRcd t res d).credits = s.credits := rfl
@[simp] theorem State.answerRcd_issue : (s.answerRcd t res d).issue = s.issue := rfl
@[simp] theorem State.answerRcd_lastGrant : (s.answerRcd t res d).lastGrant = s.lastGrant := rfl
@[simp] theorem State.answerRcd_windows : (s.answerRcd t res d).windows = s.windows := rfl
@[simp] theorem State.answerRcd_areas : (s.answerRcd t res d).areas = s.areas := rfl
@[simp] theorem State.answerRcd_slots : (s.answerRcd t res d).slots = s.slots := rfl
@[simp] theorem State.answerRcd_turn : (s.answerRcd t res d).turn = s.turn := rfl
@[simp] theorem State.answerRcd_holds : (s.answerRcd t res d).holds = s.holds := rfl
@[simp] theorem State.answerRcd_epochCounter : (s.answerRcd t res d).epochCounter = s.epochCounter := rfl
@[simp] theorem State.answerRcd_epochDue : (s.answerRcd t res d).epochDue = s.epochDue := rfl
@[simp] theorem State.answerRcd_events : (s.answerRcd t res d).events = s.events := rfl
@[simp] theorem State.answerRcd_nextSeq : (s.answerRcd t res d).nextSeq = s.nextSeq := rfl
@[simp] theorem State.answerRcd_lost : (s.answerRcd t res d).lost = s.lost := rfl
@[simp] theorem State.answerRcd_frame : (s.answerRcd t res d).frame = s.frame := rfl
@[simp] theorem State.answerRcd_shift : (s.answerRcd t res d).shift = s.shift := rfl
@[simp] theorem State.answerRcd_received : (s.answerRcd t res d).received = s.received := rfl
@[simp] theorem State.answerRcd_buffer : (s.answerRcd t res d).buffer = s.buffer := rfl
@[simp] theorem State.answerRcd_masterRead : (s.answerRcd t res d).masterRead = s.masterRead := rfl
@[simp] theorem State.answerRcd_softReset : (s.answerRcd t res d).softReset = s.softReset := rfl
@[simp] theorem State.answerRcd_timeCount : (s.answerRcd t res d).timeCount = s.timeCount := rfl

end

section
variable (s : State) (f : Credit → Credit)

@[simp] theorem State.mapCredits_pending : (s.mapCredits f).pending = s.pending := by
  unfold State.mapCredits; rfl
@[simp] theorem State.mapCredits_resetAsserted : (s.mapCredits f).resetAsserted = s.resetAsserted := by
  unfold State.mapCredits; rfl
@[simp] theorem State.mapCredits_linkAsserted : (s.mapCredits f).linkAsserted = s.linkAsserted := by
  unfold State.mapCredits; rfl
@[simp] theorem State.mapCredits_epochLevel : (s.mapCredits f).epochLevel = s.epochLevel := by
  unfold State.mapCredits; rfl
@[simp] theorem State.mapCredits_upWaiting : (s.mapCredits f).upWaiting = s.upWaiting := by
  unfold State.mapCredits; rfl
@[simp] theorem State.mapCredits_upSent : (s.mapCredits f).upSent = s.upSent := by
  unfold State.mapCredits; rfl
@[simp] theorem State.mapCredits_downSent : (s.mapCredits f).downSent = s.downSent := by
  unfold State.mapCredits; rfl
@[simp] theorem State.mapCredits_transit : (s.mapCredits f).transit = s.transit := by
  unfold State.mapCredits; rfl
@[simp] theorem State.mapCredits_fwd : (s.mapCredits f).fwd = s.fwd := by
  unfold State.mapCredits; rfl
@[simp] theorem State.mapCredits_issue : (s.mapCredits f).issue = s.issue := by
  unfold State.mapCredits; rfl
@[simp] theorem State.mapCredits_lastGrant : (s.mapCredits f).lastGrant = s.lastGrant := by
  unfold State.mapCredits; rfl
@[simp] theorem State.mapCredits_windows : (s.mapCredits f).windows = s.windows := by
  unfold State.mapCredits; rfl
@[simp] theorem State.mapCredits_areas : (s.mapCredits f).areas = s.areas := by
  unfold State.mapCredits; rfl
@[simp] theorem State.mapCredits_slots : (s.mapCredits f).slots = s.slots := by
  unfold State.mapCredits; rfl
@[simp] theorem State.mapCredits_turn : (s.mapCredits f).turn = s.turn := by
  unfold State.mapCredits; rfl
@[simp] theorem State.mapCredits_holds : (s.mapCredits f).holds = s.holds := by
  unfold State.mapCredits; rfl
@[simp] theorem State.mapCredits_epochCounter : (s.mapCredits f).epochCounter = s.epochCounter := by
  unfold State.mapCredits; rfl
@[simp] theorem State.mapCredits_epochDue : (s.mapCredits f).epochDue = s.epochDue := by
  unfold State.mapCredits; rfl
@[simp] theorem State.mapCredits_events : (s.mapCredits f).events = s.events := by
  unfold State.mapCredits; rfl
@[simp] theorem State.mapCredits_nextSeq : (s.mapCredits f).nextSeq = s.nextSeq := by
  unfold State.mapCredits; rfl
@[simp] theorem State.mapCredits_lost : (s.mapCredits f).lost = s.lost := by
  unfold State.mapCredits; rfl
@[simp] theorem State.mapCredits_frame : (s.mapCredits f).frame = s.frame := by
  unfold State.mapCredits; rfl
@[simp] theorem State.mapCredits_shift : (s.mapCredits f).shift = s.shift := by
  unfold State.mapCredits; rfl
@[simp] theorem State.mapCredits_received : (s.mapCredits f).received = s.received := by
  unfold State.mapCredits; rfl
@[simp] theorem State.mapCredits_buffer : (s.mapCredits f).buffer = s.buffer := by
  unfold State.mapCredits; rfl
@[simp] theorem State.mapCredits_masterRead : (s.mapCredits f).masterRead = s.masterRead := by
  unfold State.mapCredits; rfl
@[simp] theorem State.mapCredits_softReset : (s.mapCredits f).softReset = s.softReset := by
  unfold State.mapCredits; rfl
@[simp] theorem State.mapCredits_timeCount : (s.mapCredits f).timeCount = s.timeCount := by
  unfold State.mapCredits; rfl

end

section
variable (s : State) (e : EventBody)

@[simp] theorem State.offer_pending : (s.offer e).pending = s.pending := by
  unfold State.offer; split <;> rfl
@[simp] theorem State.offer_resetAsserted : (s.offer e).resetAsserted = s.resetAsserted := by
  unfold State.offer; split <;> rfl
@[simp] theorem State.offer_linkAsserted : (s.offer e).linkAsserted = s.linkAsserted := by
  unfold State.offer; split <;> rfl
@[simp] theorem State.offer_epochLevel : (s.offer e).epochLevel = s.epochLevel := by
  unfold State.offer; split <;> rfl
@[simp] theorem State.offer_upWaiting : (s.offer e).upWaiting = s.upWaiting := by
  unfold State.offer; split <;> rfl
@[simp] theorem State.offer_upSent : (s.offer e).upSent = s.upSent := by
  unfold State.offer; split <;> rfl
@[simp] theorem State.offer_downSent : (s.offer e).downSent = s.downSent := by
  unfold State.offer; split <;> rfl
@[simp] theorem State.offer_transit : (s.offer e).transit = s.transit := by
  unfold State.offer; split <;> rfl
@[simp] theorem State.offer_fwd : (s.offer e).fwd = s.fwd := by
  unfold State.offer; split <;> rfl
@[simp] theorem State.offer_credits : (s.offer e).credits = s.credits := by
  unfold State.offer; split <;> rfl
@[simp] theorem State.offer_issue : (s.offer e).issue = s.issue := by
  unfold State.offer; split <;> rfl
@[simp] theorem State.offer_lastGrant : (s.offer e).lastGrant = s.lastGrant := by
  unfold State.offer; split <;> rfl
@[simp] theorem State.offer_windows : (s.offer e).windows = s.windows := by
  unfold State.offer; split <;> rfl
@[simp] theorem State.offer_areas : (s.offer e).areas = s.areas := by
  unfold State.offer; split <;> rfl
@[simp] theorem State.offer_slots : (s.offer e).slots = s.slots := by
  unfold State.offer; split <;> rfl
@[simp] theorem State.offer_turn : (s.offer e).turn = s.turn := by
  unfold State.offer; split <;> rfl
@[simp] theorem State.offer_holds : (s.offer e).holds = s.holds := by
  unfold State.offer; split <;> rfl
@[simp] theorem State.offer_epochCounter : (s.offer e).epochCounter = s.epochCounter := by
  unfold State.offer; split <;> rfl
@[simp] theorem State.offer_epochDue : (s.offer e).epochDue = s.epochDue := by
  unfold State.offer; split <;> rfl
@[simp] theorem State.offer_frame : (s.offer e).frame = s.frame := by
  unfold State.offer; split <;> rfl
@[simp] theorem State.offer_shift : (s.offer e).shift = s.shift := by
  unfold State.offer; split <;> rfl
@[simp] theorem State.offer_received : (s.offer e).received = s.received := by
  unfold State.offer; split <;> rfl
@[simp] theorem State.offer_buffer : (s.offer e).buffer = s.buffer := by
  unfold State.offer; split <;> rfl
@[simp] theorem State.offer_masterRead : (s.offer e).masterRead = s.masterRead := by
  unfold State.offer; split <;> rfl
@[simp] theorem State.offer_softReset : (s.offer e).softReset = s.softReset := by
  unfold State.offer; split <;> rfl
@[simp] theorem State.offer_timeCount : (s.offer e).timeCount = s.timeCount := by
  unfold State.offer; split <;> rfl

end

section
variable (s : State) (w : WIdx) (e : EventBody)

@[simp] theorem State.post_pending : (s.post w e).pending = s.pending := by
  unfold State.post State.offer; split <;> [split <;> rfl; rfl]
@[simp] theorem State.post_resetAsserted : (s.post w e).resetAsserted = s.resetAsserted := by
  unfold State.post State.offer; split <;> [split <;> rfl; rfl]
@[simp] theorem State.post_linkAsserted : (s.post w e).linkAsserted = s.linkAsserted := by
  unfold State.post State.offer; split <;> [split <;> rfl; rfl]
@[simp] theorem State.post_epochLevel : (s.post w e).epochLevel = s.epochLevel := by
  unfold State.post State.offer; split <;> [split <;> rfl; rfl]
@[simp] theorem State.post_upWaiting : (s.post w e).upWaiting = s.upWaiting := by
  unfold State.post State.offer; split <;> [split <;> rfl; rfl]
@[simp] theorem State.post_upSent : (s.post w e).upSent = s.upSent := by
  unfold State.post State.offer; split <;> [split <;> rfl; rfl]
@[simp] theorem State.post_downSent : (s.post w e).downSent = s.downSent := by
  unfold State.post State.offer; split <;> [split <;> rfl; rfl]
@[simp] theorem State.post_transit : (s.post w e).transit = s.transit := by
  unfold State.post State.offer; split <;> [split <;> rfl; rfl]
@[simp] theorem State.post_fwd : (s.post w e).fwd = s.fwd := by
  unfold State.post State.offer; split <;> [split <;> rfl; rfl]
@[simp] theorem State.post_credits : (s.post w e).credits = s.credits := by
  unfold State.post State.offer; split <;> [split <;> rfl; rfl]
@[simp] theorem State.post_issue : (s.post w e).issue = s.issue := by
  unfold State.post State.offer; split <;> [split <;> rfl; rfl]
@[simp] theorem State.post_lastGrant : (s.post w e).lastGrant = s.lastGrant := by
  unfold State.post State.offer; split <;> [split <;> rfl; rfl]
@[simp] theorem State.post_windows : (s.post w e).windows = s.windows := by
  unfold State.post State.offer; split <;> [split <;> rfl; rfl]
@[simp] theorem State.post_areas : (s.post w e).areas = s.areas := by
  unfold State.post State.offer; split <;> [split <;> rfl; rfl]
@[simp] theorem State.post_slots : (s.post w e).slots = s.slots := by
  unfold State.post State.offer; split <;> [split <;> rfl; rfl]
@[simp] theorem State.post_turn : (s.post w e).turn = s.turn := by
  unfold State.post State.offer; split <;> [split <;> rfl; rfl]
@[simp] theorem State.post_holds : (s.post w e).holds = s.holds := by
  unfold State.post State.offer; split <;> [split <;> rfl; rfl]
@[simp] theorem State.post_epochCounter : (s.post w e).epochCounter = s.epochCounter := by
  unfold State.post State.offer; split <;> [split <;> rfl; rfl]
@[simp] theorem State.post_epochDue : (s.post w e).epochDue = s.epochDue := by
  unfold State.post State.offer; split <;> [split <;> rfl; rfl]
@[simp] theorem State.post_frame : (s.post w e).frame = s.frame := by
  unfold State.post State.offer; split <;> [split <;> rfl; rfl]
@[simp] theorem State.post_shift : (s.post w e).shift = s.shift := by
  unfold State.post State.offer; split <;> [split <;> rfl; rfl]
@[simp] theorem State.post_received : (s.post w e).received = s.received := by
  unfold State.post State.offer; split <;> [split <;> rfl; rfl]
@[simp] theorem State.post_buffer : (s.post w e).buffer = s.buffer := by
  unfold State.post State.offer; split <;> [split <;> rfl; rfl]
@[simp] theorem State.post_masterRead : (s.post w e).masterRead = s.masterRead := by
  unfold State.post State.offer; split <;> [split <;> rfl; rfl]
@[simp] theorem State.post_softReset : (s.post w e).softReset = s.softReset := by
  unfold State.post State.offer; split <;> [split <;> rfl; rfl]
@[simp] theorem State.post_timeCount : (s.post w e).timeCount = s.timeCount := by
  unfold State.post State.offer; split <;> [split <;> rfl; rfl]

end

section
variable (s : State) (src : Source) (tag : Tag) (res : Result)

@[simp] theorem State.answerWrite_pending : (s.answerWrite src tag res).pending = s.pending := by
  unfold State.answerWrite; split <;> rfl
@[simp] theorem State.answerWrite_resetAsserted : (s.answerWrite src tag res).resetAsserted = s.resetAsserted := by
  unfold State.answerWrite; split <;> rfl
@[simp] theorem State.answerWrite_linkAsserted : (s.answerWrite src tag res).linkAsserted = s.linkAsserted := by
  unfold State.answerWrite; split <;> rfl
@[simp] theorem State.answerWrite_epochLevel : (s.answerWrite src tag res).epochLevel = s.epochLevel := by
  unfold State.answerWrite; split <;> rfl
@[simp] theorem State.answerWrite_upWaiting : (s.answerWrite src tag res).upWaiting = s.upWaiting := by
  unfold State.answerWrite; split <;> rfl
@[simp] theorem State.answerWrite_upSent : (s.answerWrite src tag res).upSent = s.upSent := by
  unfold State.answerWrite; split <;> rfl
@[simp] theorem State.answerWrite_downSent : (s.answerWrite src tag res).downSent = s.downSent := by
  unfold State.answerWrite; split <;> rfl
@[simp] theorem State.answerWrite_fwd : (s.answerWrite src tag res).fwd = s.fwd := by
  unfold State.answerWrite; split <;> rfl
@[simp] theorem State.answerWrite_credits : (s.answerWrite src tag res).credits = s.credits := by
  unfold State.answerWrite; split <;> rfl
@[simp] theorem State.answerWrite_issue : (s.answerWrite src tag res).issue = s.issue := by
  unfold State.answerWrite; split <;> rfl
@[simp] theorem State.answerWrite_lastGrant : (s.answerWrite src tag res).lastGrant = s.lastGrant := by
  unfold State.answerWrite; split <;> rfl
@[simp] theorem State.answerWrite_windows : (s.answerWrite src tag res).windows = s.windows := by
  unfold State.answerWrite; split <;> rfl
@[simp] theorem State.answerWrite_areas : (s.answerWrite src tag res).areas = s.areas := by
  unfold State.answerWrite; split <;> rfl
@[simp] theorem State.answerWrite_slots : (s.answerWrite src tag res).slots = s.slots := by
  unfold State.answerWrite; split <;> rfl
@[simp] theorem State.answerWrite_turn : (s.answerWrite src tag res).turn = s.turn := by
  unfold State.answerWrite; split <;> rfl
@[simp] theorem State.answerWrite_holds : (s.answerWrite src tag res).holds = s.holds := by
  unfold State.answerWrite; split <;> rfl
@[simp] theorem State.answerWrite_epochCounter : (s.answerWrite src tag res).epochCounter = s.epochCounter := by
  unfold State.answerWrite; split <;> rfl
@[simp] theorem State.answerWrite_epochDue : (s.answerWrite src tag res).epochDue = s.epochDue := by
  unfold State.answerWrite; split <;> rfl
@[simp] theorem State.answerWrite_events : (s.answerWrite src tag res).events = s.events := by
  unfold State.answerWrite; split <;> rfl
@[simp] theorem State.answerWrite_nextSeq : (s.answerWrite src tag res).nextSeq = s.nextSeq := by
  unfold State.answerWrite; split <;> rfl
@[simp] theorem State.answerWrite_lost : (s.answerWrite src tag res).lost = s.lost := by
  unfold State.answerWrite; split <;> rfl
@[simp] theorem State.answerWrite_frame : (s.answerWrite src tag res).frame = s.frame := by
  unfold State.answerWrite; split <;> rfl
@[simp] theorem State.answerWrite_shift : (s.answerWrite src tag res).shift = s.shift := by
  unfold State.answerWrite; split <;> rfl
@[simp] theorem State.answerWrite_received : (s.answerWrite src tag res).received = s.received := by
  unfold State.answerWrite; split <;> rfl
@[simp] theorem State.answerWrite_buffer : (s.answerWrite src tag res).buffer = s.buffer := by
  unfold State.answerWrite; split <;> rfl
@[simp] theorem State.answerWrite_masterRead : (s.answerWrite src tag res).masterRead = s.masterRead := by
  unfold State.answerWrite; split <;> rfl
@[simp] theorem State.answerWrite_softReset : (s.answerWrite src tag res).softReset = s.softReset := by
  unfold State.answerWrite; split <;> rfl
@[simp] theorem State.answerWrite_timeCount : (s.answerWrite src tag res).timeCount = s.timeCount := by
  unfold State.answerWrite; split <;> rfl

end

section
variable (s : State) (src : Source) (tag : Tag) (wt : Wait)

@[simp] theorem State.waitWrite_pending : (s.waitWrite src tag wt).pending = s.pending := by
  unfold State.waitWrite; split <;> rfl
@[simp] theorem State.waitWrite_resetAsserted : (s.waitWrite src tag wt).resetAsserted = s.resetAsserted := by
  unfold State.waitWrite; split <;> rfl
@[simp] theorem State.waitWrite_linkAsserted : (s.waitWrite src tag wt).linkAsserted = s.linkAsserted := by
  unfold State.waitWrite; split <;> rfl
@[simp] theorem State.waitWrite_epochLevel : (s.waitWrite src tag wt).epochLevel = s.epochLevel := by
  unfold State.waitWrite; split <;> rfl
@[simp] theorem State.waitWrite_upWaiting : (s.waitWrite src tag wt).upWaiting = s.upWaiting := by
  unfold State.waitWrite; split <;> rfl
@[simp] theorem State.waitWrite_upSent : (s.waitWrite src tag wt).upSent = s.upSent := by
  unfold State.waitWrite; split <;> rfl
@[simp] theorem State.waitWrite_downSent : (s.waitWrite src tag wt).downSent = s.downSent := by
  unfold State.waitWrite; split <;> rfl
@[simp] theorem State.waitWrite_fwd : (s.waitWrite src tag wt).fwd = s.fwd := by
  unfold State.waitWrite; split <;> rfl
@[simp] theorem State.waitWrite_credits : (s.waitWrite src tag wt).credits = s.credits := by
  unfold State.waitWrite; split <;> rfl
@[simp] theorem State.waitWrite_issue : (s.waitWrite src tag wt).issue = s.issue := by
  unfold State.waitWrite; split <;> rfl
@[simp] theorem State.waitWrite_lastGrant : (s.waitWrite src tag wt).lastGrant = s.lastGrant := by
  unfold State.waitWrite; split <;> rfl
@[simp] theorem State.waitWrite_windows : (s.waitWrite src tag wt).windows = s.windows := by
  unfold State.waitWrite; split <;> rfl
@[simp] theorem State.waitWrite_areas : (s.waitWrite src tag wt).areas = s.areas := by
  unfold State.waitWrite; split <;> rfl
@[simp] theorem State.waitWrite_slots : (s.waitWrite src tag wt).slots = s.slots := by
  unfold State.waitWrite; split <;> rfl
@[simp] theorem State.waitWrite_turn : (s.waitWrite src tag wt).turn = s.turn := by
  unfold State.waitWrite; split <;> rfl
@[simp] theorem State.waitWrite_holds : (s.waitWrite src tag wt).holds = s.holds := by
  unfold State.waitWrite; split <;> rfl
@[simp] theorem State.waitWrite_epochCounter : (s.waitWrite src tag wt).epochCounter = s.epochCounter := by
  unfold State.waitWrite; split <;> rfl
@[simp] theorem State.waitWrite_epochDue : (s.waitWrite src tag wt).epochDue = s.epochDue := by
  unfold State.waitWrite; split <;> rfl
@[simp] theorem State.waitWrite_events : (s.waitWrite src tag wt).events = s.events := by
  unfold State.waitWrite; split <;> rfl
@[simp] theorem State.waitWrite_nextSeq : (s.waitWrite src tag wt).nextSeq = s.nextSeq := by
  unfold State.waitWrite; split <;> rfl
@[simp] theorem State.waitWrite_lost : (s.waitWrite src tag wt).lost = s.lost := by
  unfold State.waitWrite; split <;> rfl
@[simp] theorem State.waitWrite_frame : (s.waitWrite src tag wt).frame = s.frame := by
  unfold State.waitWrite; split <;> rfl
@[simp] theorem State.waitWrite_shift : (s.waitWrite src tag wt).shift = s.shift := by
  unfold State.waitWrite; split <;> rfl
@[simp] theorem State.waitWrite_received : (s.waitWrite src tag wt).received = s.received := by
  unfold State.waitWrite; split <;> rfl
@[simp] theorem State.waitWrite_buffer : (s.waitWrite src tag wt).buffer = s.buffer := by
  unfold State.waitWrite; split <;> rfl
@[simp] theorem State.waitWrite_masterRead : (s.waitWrite src tag wt).masterRead = s.masterRead := by
  unfold State.waitWrite; split <;> rfl
@[simp] theorem State.waitWrite_softReset : (s.waitWrite src tag wt).softReset = s.softReset := by
  unfold State.waitWrite; split <;> rfl
@[simp] theorem State.waitWrite_timeCount : (s.waitWrite src tag wt).timeCount = s.timeCount := by
  unfold State.waitWrite; split <;> rfl

end

section
variable (s : State) (g : Group) (res : Result)

@[simp] theorem State.answerPending_pending : (s.answerPending g res).pending = s.pending := by
  unfold State.answerPending; split <;> simp
@[simp] theorem State.answerPending_resetAsserted : (s.answerPending g res).resetAsserted = s.resetAsserted := by
  unfold State.answerPending; split <;> simp
@[simp] theorem State.answerPending_linkAsserted : (s.answerPending g res).linkAsserted = s.linkAsserted := by
  unfold State.answerPending; split <;> simp
@[simp] theorem State.answerPending_epochLevel : (s.answerPending g res).epochLevel = s.epochLevel := by
  unfold State.answerPending; split <;> simp
@[simp] theorem State.answerPending_upWaiting : (s.answerPending g res).upWaiting = s.upWaiting := by
  unfold State.answerPending; split <;> simp
@[simp] theorem State.answerPending_upSent : (s.answerPending g res).upSent = s.upSent := by
  unfold State.answerPending; split <;> simp
@[simp] theorem State.answerPending_downSent : (s.answerPending g res).downSent = s.downSent := by
  unfold State.answerPending; split <;> simp
@[simp] theorem State.answerPending_fwd : (s.answerPending g res).fwd = s.fwd := by
  unfold State.answerPending; split <;> simp
@[simp] theorem State.answerPending_credits : (s.answerPending g res).credits = s.credits := by
  unfold State.answerPending; split <;> simp
@[simp] theorem State.answerPending_issue : (s.answerPending g res).issue = s.issue := by
  unfold State.answerPending; split <;> simp
@[simp] theorem State.answerPending_lastGrant : (s.answerPending g res).lastGrant = s.lastGrant := by
  unfold State.answerPending; split <;> simp
@[simp] theorem State.answerPending_windows : (s.answerPending g res).windows = s.windows := by
  unfold State.answerPending; split <;> simp
@[simp] theorem State.answerPending_areas : (s.answerPending g res).areas = s.areas := by
  unfold State.answerPending; split <;> simp
@[simp] theorem State.answerPending_slots : (s.answerPending g res).slots = s.slots := by
  unfold State.answerPending; split <;> simp
@[simp] theorem State.answerPending_turn : (s.answerPending g res).turn = s.turn := by
  unfold State.answerPending; split <;> simp
@[simp] theorem State.answerPending_holds : (s.answerPending g res).holds = s.holds := by
  unfold State.answerPending; split <;> simp
@[simp] theorem State.answerPending_epochCounter : (s.answerPending g res).epochCounter = s.epochCounter := by
  unfold State.answerPending; split <;> simp
@[simp] theorem State.answerPending_epochDue : (s.answerPending g res).epochDue = s.epochDue := by
  unfold State.answerPending; split <;> simp
@[simp] theorem State.answerPending_events : (s.answerPending g res).events = s.events := by
  unfold State.answerPending; split <;> simp
@[simp] theorem State.answerPending_nextSeq : (s.answerPending g res).nextSeq = s.nextSeq := by
  unfold State.answerPending; split <;> simp
@[simp] theorem State.answerPending_lost : (s.answerPending g res).lost = s.lost := by
  unfold State.answerPending; split <;> simp
@[simp] theorem State.answerPending_frame : (s.answerPending g res).frame = s.frame := by
  unfold State.answerPending; split <;> simp
@[simp] theorem State.answerPending_shift : (s.answerPending g res).shift = s.shift := by
  unfold State.answerPending; split <;> simp
@[simp] theorem State.answerPending_received : (s.answerPending g res).received = s.received := by
  unfold State.answerPending; split <;> simp
@[simp] theorem State.answerPending_buffer : (s.answerPending g res).buffer = s.buffer := by
  unfold State.answerPending; split <;> simp
@[simp] theorem State.answerPending_masterRead : (s.answerPending g res).masterRead = s.masterRead := by
  unfold State.answerPending; split <;> simp
@[simp] theorem State.answerPending_softReset : (s.answerPending g res).softReset = s.softReset := by
  unfold State.answerPending; split <;> simp
@[simp] theorem State.answerPending_timeCount : (s.answerPending g res).timeCount = s.timeCount := by
  unfold State.answerPending; split <;> simp

end

section
variable (s : State) (x : Write)

@[simp] theorem State.endHold_pending : (s.endHold x).pending = s.pending := by
  unfold State.endHold; split <;> rfl
@[simp] theorem State.endHold_resetAsserted : (s.endHold x).resetAsserted = s.resetAsserted := by
  unfold State.endHold; split <;> rfl
@[simp] theorem State.endHold_linkAsserted : (s.endHold x).linkAsserted = s.linkAsserted := by
  unfold State.endHold; split <;> rfl
@[simp] theorem State.endHold_epochLevel : (s.endHold x).epochLevel = s.epochLevel := by
  unfold State.endHold; split <;> rfl
@[simp] theorem State.endHold_upWaiting : (s.endHold x).upWaiting = s.upWaiting := by
  unfold State.endHold; split <;> rfl
@[simp] theorem State.endHold_upSent : (s.endHold x).upSent = s.upSent := by
  unfold State.endHold; split <;> rfl
@[simp] theorem State.endHold_downSent : (s.endHold x).downSent = s.downSent := by
  unfold State.endHold; split <;> rfl
@[simp] theorem State.endHold_transit : (s.endHold x).transit = s.transit := by
  unfold State.endHold; split <;> rfl
@[simp] theorem State.endHold_fwd : (s.endHold x).fwd = s.fwd := by
  unfold State.endHold; split <;> rfl
@[simp] theorem State.endHold_credits : (s.endHold x).credits = s.credits := by
  unfold State.endHold; split <;> rfl
@[simp] theorem State.endHold_issue : (s.endHold x).issue = s.issue := by
  unfold State.endHold; split <;> rfl
@[simp] theorem State.endHold_lastGrant : (s.endHold x).lastGrant = s.lastGrant := by
  unfold State.endHold; split <;> rfl
@[simp] theorem State.endHold_windows : (s.endHold x).windows = s.windows := by
  unfold State.endHold; split <;> rfl
@[simp] theorem State.endHold_areas : (s.endHold x).areas = s.areas := by
  unfold State.endHold; split <;> rfl
@[simp] theorem State.endHold_slots : (s.endHold x).slots = s.slots := by
  unfold State.endHold; split <;> rfl
@[simp] theorem State.endHold_turn : (s.endHold x).turn = s.turn := by
  unfold State.endHold; split <;> rfl
@[simp] theorem State.endHold_epochCounter : (s.endHold x).epochCounter = s.epochCounter := by
  unfold State.endHold; split <;> rfl
@[simp] theorem State.endHold_epochDue : (s.endHold x).epochDue = s.epochDue := by
  unfold State.endHold; split <;> rfl
@[simp] theorem State.endHold_events : (s.endHold x).events = s.events := by
  unfold State.endHold; split <;> rfl
@[simp] theorem State.endHold_nextSeq : (s.endHold x).nextSeq = s.nextSeq := by
  unfold State.endHold; split <;> rfl
@[simp] theorem State.endHold_lost : (s.endHold x).lost = s.lost := by
  unfold State.endHold; split <;> rfl
@[simp] theorem State.endHold_frame : (s.endHold x).frame = s.frame := by
  unfold State.endHold; split <;> rfl
@[simp] theorem State.endHold_shift : (s.endHold x).shift = s.shift := by
  unfold State.endHold; split <;> rfl
@[simp] theorem State.endHold_received : (s.endHold x).received = s.received := by
  unfold State.endHold; split <;> rfl
@[simp] theorem State.endHold_buffer : (s.endHold x).buffer = s.buffer := by
  unfold State.endHold; split <;> rfl
@[simp] theorem State.endHold_masterRead : (s.endHold x).masterRead = s.masterRead := by
  unfold State.endHold; split <;> rfl
@[simp] theorem State.endHold_softReset : (s.endHold x).softReset = s.softReset := by
  unfold State.endHold; split <;> rfl
@[simp] theorem State.endHold_timeCount : (s.endHold x).timeCount = s.timeCount := by
  unfold State.endHold; split <;> rfl

end

section
variable (s : State) (x : Write) (res : Result)

@[simp] theorem State.endWrite_pending : (s.endWrite x res).pending = s.pending := by
  simp [State.endWrite]
@[simp] theorem State.endWrite_resetAsserted : (s.endWrite x res).resetAsserted = s.resetAsserted := by
  simp [State.endWrite]
@[simp] theorem State.endWrite_linkAsserted : (s.endWrite x res).linkAsserted = s.linkAsserted := by
  simp [State.endWrite]
@[simp] theorem State.endWrite_epochLevel : (s.endWrite x res).epochLevel = s.epochLevel := by
  simp [State.endWrite]
@[simp] theorem State.endWrite_upWaiting : (s.endWrite x res).upWaiting = s.upWaiting := by
  simp [State.endWrite]
@[simp] theorem State.endWrite_upSent : (s.endWrite x res).upSent = s.upSent := by
  simp [State.endWrite]
@[simp] theorem State.endWrite_downSent : (s.endWrite x res).downSent = s.downSent := by
  simp [State.endWrite]
@[simp] theorem State.endWrite_fwd : (s.endWrite x res).fwd = s.fwd := by
  simp [State.endWrite]
@[simp] theorem State.endWrite_credits : (s.endWrite x res).credits = s.credits := by
  simp [State.endWrite]
@[simp] theorem State.endWrite_issue : (s.endWrite x res).issue = s.issue := by
  simp [State.endWrite]
@[simp] theorem State.endWrite_lastGrant : (s.endWrite x res).lastGrant = s.lastGrant := by
  simp [State.endWrite]
@[simp] theorem State.endWrite_windows : (s.endWrite x res).windows = s.windows := by
  simp [State.endWrite]
@[simp] theorem State.endWrite_areas : (s.endWrite x res).areas = s.areas := by
  simp [State.endWrite]
@[simp] theorem State.endWrite_slots : (s.endWrite x res).slots = s.slots := by
  simp [State.endWrite]
@[simp] theorem State.endWrite_turn : (s.endWrite x res).turn = s.turn := by
  simp [State.endWrite]
@[simp] theorem State.endWrite_epochCounter : (s.endWrite x res).epochCounter = s.epochCounter := by
  simp [State.endWrite]
@[simp] theorem State.endWrite_epochDue : (s.endWrite x res).epochDue = s.epochDue := by
  simp [State.endWrite]
@[simp] theorem State.endWrite_events : (s.endWrite x res).events = s.events := by
  simp [State.endWrite]
@[simp] theorem State.endWrite_nextSeq : (s.endWrite x res).nextSeq = s.nextSeq := by
  simp [State.endWrite]
@[simp] theorem State.endWrite_lost : (s.endWrite x res).lost = s.lost := by
  simp [State.endWrite]
@[simp] theorem State.endWrite_frame : (s.endWrite x res).frame = s.frame := by
  simp [State.endWrite]
@[simp] theorem State.endWrite_shift : (s.endWrite x res).shift = s.shift := by
  simp [State.endWrite]
@[simp] theorem State.endWrite_received : (s.endWrite x res).received = s.received := by
  simp [State.endWrite]
@[simp] theorem State.endWrite_buffer : (s.endWrite x res).buffer = s.buffer := by
  simp [State.endWrite]
@[simp] theorem State.endWrite_masterRead : (s.endWrite x res).masterRead = s.masterRead := by
  simp [State.endWrite]
@[simp] theorem State.endWrite_softReset : (s.endWrite x res).softReset = s.softReset := by
  simp [State.endWrite]
@[simp] theorem State.endWrite_timeCount : (s.endWrite x res).timeCount = s.timeCount := by
  simp [State.endWrite]

end

section
variable (s : State) (w : WIdx) (l : List (BitVec 16))

@[simp] theorem State.setDue_pending : (s.setDue w l).pending = s.pending := rfl
@[simp] theorem State.setDue_resetAsserted : (s.setDue w l).resetAsserted = s.resetAsserted := rfl
@[simp] theorem State.setDue_linkAsserted : (s.setDue w l).linkAsserted = s.linkAsserted := rfl
@[simp] theorem State.setDue_epochLevel : (s.setDue w l).epochLevel = s.epochLevel := rfl
@[simp] theorem State.setDue_upWaiting : (s.setDue w l).upWaiting = s.upWaiting := rfl
@[simp] theorem State.setDue_upSent : (s.setDue w l).upSent = s.upSent := rfl
@[simp] theorem State.setDue_downSent : (s.setDue w l).downSent = s.downSent := rfl
@[simp] theorem State.setDue_transit : (s.setDue w l).transit = s.transit := rfl
@[simp] theorem State.setDue_fwd : (s.setDue w l).fwd = s.fwd := rfl
@[simp] theorem State.setDue_credits : (s.setDue w l).credits = s.credits := rfl
@[simp] theorem State.setDue_issue : (s.setDue w l).issue = s.issue := rfl
@[simp] theorem State.setDue_lastGrant : (s.setDue w l).lastGrant = s.lastGrant := rfl
@[simp] theorem State.setDue_windows : (s.setDue w l).windows = s.windows := rfl
@[simp] theorem State.setDue_areas : (s.setDue w l).areas = s.areas := rfl
@[simp] theorem State.setDue_slots : (s.setDue w l).slots = s.slots := rfl
@[simp] theorem State.setDue_turn : (s.setDue w l).turn = s.turn := rfl
@[simp] theorem State.setDue_holds : (s.setDue w l).holds = s.holds := rfl
@[simp] theorem State.setDue_epochCounter : (s.setDue w l).epochCounter = s.epochCounter := rfl
@[simp] theorem State.setDue_events : (s.setDue w l).events = s.events := rfl
@[simp] theorem State.setDue_nextSeq : (s.setDue w l).nextSeq = s.nextSeq := rfl
@[simp] theorem State.setDue_lost : (s.setDue w l).lost = s.lost := rfl
@[simp] theorem State.setDue_frame : (s.setDue w l).frame = s.frame := rfl
@[simp] theorem State.setDue_shift : (s.setDue w l).shift = s.shift := rfl
@[simp] theorem State.setDue_received : (s.setDue w l).received = s.received := rfl
@[simp] theorem State.setDue_buffer : (s.setDue w l).buffer = s.buffer := rfl
@[simp] theorem State.setDue_masterRead : (s.setDue w l).masterRead = s.masterRead := rfl
@[simp] theorem State.setDue_softReset : (s.setDue w l).softReset = s.softReset := rfl
@[simp] theorem State.setDue_timeCount : (s.setDue w l).timeCount = s.timeCount := rfl

end

/-! ### Writing a record twice -/

@[simp] theorem State.setWin_setWin (s : State) (w : WIdx) (x y : Window) : (s.setWin w x).setWin w y = s.setWin w y := by
  simp [State.setWin]

@[simp] theorem State.setRcd_setRcd (s : State) (t : RecNo) (x y : Option Transit) : (s.setRcd t x).setRcd t y = s.setRcd t y := by
  simp [State.setRcd]

@[simp] theorem State.setArea_setArea (s : State) (a : AIdx) (x y : Area) : (s.setArea a x).setArea a y = s.setArea a y := by
  simp [State.setArea]

@[simp] theorem State.setCredit_setCredit (s : State) (c : CreditNo) (x y : Credit) :
    (s.setCredit c x).setCredit c y = s.setCredit c y := by
  simp [State.setCredit]

/-! ### A record that an update does not write -/

@[simp] theorem State.area_setWin (s : State) (w : WIdx) (x : Window) (b : AIdx) : (s.setWin w x).area b = s.area b := rfl
@[simp] theorem State.rcd_setWin (s : State) (w : WIdx) (x : Window) (u : RecNo) : (s.setWin w x).rcd u = s.rcd u := rfl
@[simp] theorem State.credit_setWin (s : State) (w : WIdx) (x : Window) (cn : CreditNo) : (s.setWin w x).credit cn = s.credit cn := rfl
@[simp] theorem State.area_modWin (s : State) (w : WIdx) (f : Window → Window) (b : AIdx) : (s.modWin w f).area b = s.area b := rfl
@[simp] theorem State.rcd_modWin (s : State) (w : WIdx) (f : Window → Window) (u : RecNo) : (s.modWin w f).rcd u = s.rcd u := rfl
@[simp] theorem State.credit_modWin (s : State) (w : WIdx) (f : Window → Window) (cn : CreditNo) : (s.modWin w f).credit cn = s.credit cn := rfl
@[simp] theorem State.win_setArea (s : State) (a : AIdx) (x : Area) (v : WIdx) : (s.setArea a x).win v = s.win v := rfl
@[simp] theorem State.rcd_setArea (s : State) (a : AIdx) (x : Area) (u : RecNo) : (s.setArea a x).rcd u = s.rcd u := rfl
@[simp] theorem State.credit_setArea (s : State) (a : AIdx) (x : Area) (cn : CreditNo) : (s.setArea a x).credit cn = s.credit cn := rfl
@[simp] theorem State.win_lowerUsed (s : State) (a : AIdx) (k : Nat) (v : WIdx) : (s.lowerUsed a k).win v = s.win v := rfl
@[simp] theorem State.rcd_lowerUsed (s : State) (a : AIdx) (k : Nat) (u : RecNo) : (s.lowerUsed a k).rcd u = s.rcd u := rfl
@[simp] theorem State.credit_lowerUsed (s : State) (a : AIdx) (k : Nat) (cn : CreditNo) : (s.lowerUsed a k).credit cn = s.credit cn := rfl
@[simp] theorem State.win_setRcd (s : State) (t : RecNo) (x : Option Transit) (v : WIdx) : (s.setRcd t x).win v = s.win v := rfl
@[simp] theorem State.area_setRcd (s : State) (t : RecNo) (x : Option Transit) (b : AIdx) : (s.setRcd t x).area b = s.area b := rfl
@[simp] theorem State.credit_setRcd (s : State) (t : RecNo) (x : Option Transit) (cn : CreditNo) : (s.setRcd t x).credit cn = s.credit cn := rfl
@[simp] theorem State.win_modRcd (s : State) (t : RecNo) (f : Transit → Transit) (v : WIdx) : (s.modRcd t f).win v = s.win v := rfl
@[simp] theorem State.area_modRcd (s : State) (t : RecNo) (f : Transit → Transit) (b : AIdx) : (s.modRcd t f).area b = s.area b := rfl
@[simp] theorem State.credit_modRcd (s : State) (t : RecNo) (f : Transit → Transit) (cn : CreditNo) : (s.modRcd t f).credit cn = s.credit cn := rfl
@[simp] theorem State.win_setCredit (s : State) (c : CreditNo) (x : Credit) (v : WIdx) : (s.setCredit c x).win v = s.win v := rfl
@[simp] theorem State.area_setCredit (s : State) (c : CreditNo) (x : Credit) (b : AIdx) : (s.setCredit c x).area b = s.area b := rfl
@[simp] theorem State.rcd_setCredit (s : State) (c : CreditNo) (x : Credit) (u : RecNo) : (s.setCredit c x).rcd u = s.rcd u := rfl
@[simp] theorem State.win_windowTrigger (s : State) (w : WIdx) (v : WIdx) : (s.windowTrigger w).win v = s.win v := rfl
@[simp] theorem State.area_windowTrigger (s : State) (w : WIdx) (b : AIdx) : (s.windowTrigger w).area b = s.area b := rfl
@[simp] theorem State.rcd_windowTrigger (s : State) (w : WIdx) (u : RecNo) : (s.windowTrigger w).rcd u = s.rcd u := rfl
@[simp] theorem State.credit_windowTrigger (s : State) (w : WIdx) (cn : CreditNo) : (s.windowTrigger w).credit cn = s.credit cn := rfl
@[simp] theorem State.win_areaTrigger (s : State) (a : AIdx) (v : WIdx) : (s.areaTrigger a).win v = s.win v := rfl
@[simp] theorem State.area_areaTrigger (s : State) (a : AIdx) (b : AIdx) : (s.areaTrigger a).area b = s.area b := rfl
@[simp] theorem State.rcd_areaTrigger (s : State) (a : AIdx) (u : RecNo) : (s.areaTrigger a).rcd u = s.rcd u := rfl
@[simp] theorem State.credit_areaTrigger (s : State) (a : AIdx) (cn : CreditNo) : (s.areaTrigger a).credit cn = s.credit cn := rfl
@[simp] theorem State.win_dropHold (s : State) (k : HoldNo) (v : WIdx) : (s.dropHold k).win v = s.win v := rfl
@[simp] theorem State.area_dropHold (s : State) (k : HoldNo) (b : AIdx) : (s.dropHold k).area b = s.area b := rfl
@[simp] theorem State.rcd_dropHold (s : State) (k : HoldNo) (u : RecNo) : (s.dropHold k).rcd u = s.rcd u := rfl
@[simp] theorem State.credit_dropHold (s : State) (k : HoldNo) (cn : CreditNo) : (s.dropHold k).credit cn = s.credit cn := rfl
@[simp] theorem State.area_setOldest (s : State) (w : WIdx) (g : Group) (b : AIdx) : (s.setOldest w g).area b = s.area b := rfl
@[simp] theorem State.rcd_setOldest (s : State) (w : WIdx) (g : Group) (u : RecNo) : (s.setOldest w g).rcd u = s.rcd u := rfl
@[simp] theorem State.credit_setOldest (s : State) (w : WIdx) (g : Group) (cn : CreditNo) : (s.setOldest w g).credit cn = s.credit cn := rfl
@[simp] theorem State.area_setYoungest (s : State) (w : WIdx) (g : Group) (b : AIdx) : (s.setYoungest w g).area b = s.area b := rfl
@[simp] theorem State.rcd_setYoungest (s : State) (w : WIdx) (g : Group) (u : RecNo) : (s.setYoungest w g).rcd u = s.rcd u := rfl
@[simp] theorem State.credit_setYoungest (s : State) (w : WIdx) (g : Group) (cn : CreditNo) : (s.setYoungest w g).credit cn = s.credit cn := rfl
@[simp] theorem State.area_removeGroup (s : State) (w : WIdx) (g : Group) (b : AIdx) : (s.removeGroup w g).area b = s.area b := rfl
@[simp] theorem State.rcd_removeGroup (s : State) (w : WIdx) (g : Group) (u : RecNo) : (s.removeGroup w g).rcd u = s.rcd u := rfl
@[simp] theorem State.credit_removeGroup (s : State) (w : WIdx) (g : Group) (cn : CreditNo) : (s.removeGroup w g).credit cn = s.credit cn := rfl
@[simp] theorem State.area_bumpPublished (s : State) (w : WIdx) (b : AIdx) : (s.bumpPublished w).area b = s.area b := rfl
@[simp] theorem State.rcd_bumpPublished (s : State) (w : WIdx) (u : RecNo) : (s.bumpPublished w).rcd u = s.rcd u := rfl
@[simp] theorem State.credit_bumpPublished (s : State) (w : WIdx) (cn : CreditNo) : (s.bumpPublished w).credit cn = s.credit cn := rfl
@[simp] theorem State.area_bumpDiscarded (s : State) (w : WIdx) (b : AIdx) : (s.bumpDiscarded w).area b = s.area b := rfl
@[simp] theorem State.rcd_bumpDiscarded (s : State) (w : WIdx) (u : RecNo) : (s.bumpDiscarded w).rcd u = s.rcd u := rfl
@[simp] theorem State.credit_bumpDiscarded (s : State) (w : WIdx) (cn : CreditNo) : (s.bumpDiscarded w).credit cn = s.credit cn := rfl
@[simp] theorem State.area_bumpBroken (s : State) (w : WIdx) (b : AIdx) : (s.bumpBroken w).area b = s.area b := rfl
@[simp] theorem State.rcd_bumpBroken (s : State) (w : WIdx) (u : RecNo) : (s.bumpBroken w).rcd u = s.rcd u := rfl
@[simp] theorem State.credit_bumpBroken (s : State) (w : WIdx) (cn : CreditNo) : (s.bumpBroken w).credit cn = s.credit cn := rfl
@[simp] theorem State.area_bumpRefused (s : State) (w : WIdx) (b : AIdx) : (s.bumpRefused w).area b = s.area b := rfl
@[simp] theorem State.rcd_bumpRefused (s : State) (w : WIdx) (u : RecNo) : (s.bumpRefused w).rcd u = s.rcd u := rfl
@[simp] theorem State.credit_bumpRefused (s : State) (w : WIdx) (cn : CreditNo) : (s.bumpRefused w).credit cn = s.credit cn := rfl
@[simp] theorem State.win_clearChannel (s : State)  (v : WIdx) : (s.clearChannel).win v = s.win v := rfl
@[simp] theorem State.area_clearChannel (s : State)  (b : AIdx) : (s.clearChannel).area b = s.area b := rfl
@[simp] theorem State.rcd_clearChannel (s : State)  (u : RecNo) : (s.clearChannel).rcd u = s.rcd u := rfl
@[simp] theorem State.credit_clearChannel (s : State)  (cn : CreditNo) : (s.clearChannel).credit cn = s.credit cn := rfl
@[simp] theorem State.win_answerRcd (s : State) (t : RecNo) (res : Result) (d : Option LineData) (v : WIdx) : (s.answerRcd t res d).win v = s.win v := rfl
@[simp] theorem State.area_answerRcd (s : State) (t : RecNo) (res : Result) (d : Option LineData) (b : AIdx) : (s.answerRcd t res d).area b = s.area b := rfl
@[simp] theorem State.credit_answerRcd (s : State) (t : RecNo) (res : Result) (d : Option LineData) (cn : CreditNo) : (s.answerRcd t res d).credit cn = s.credit cn := rfl
@[simp] theorem State.win_mapCredits (s : State) (f : Credit → Credit) (v : WIdx) : (s.mapCredits f).win v = s.win v := by
  simp [State.win]
@[simp] theorem State.area_mapCredits (s : State) (f : Credit → Credit) (b : AIdx) : (s.mapCredits f).area b = s.area b := by
  simp [State.area]
@[simp] theorem State.rcd_mapCredits (s : State) (f : Credit → Credit) (u : RecNo) : (s.mapCredits f).rcd u = s.rcd u := by
  simp [State.rcd]
@[simp] theorem State.win_offer (s : State) (e : EventBody) (v : WIdx) : (s.offer e).win v = s.win v := by
  simp [State.win]
@[simp] theorem State.area_offer (s : State) (e : EventBody) (b : AIdx) : (s.offer e).area b = s.area b := by
  simp [State.area]
@[simp] theorem State.rcd_offer (s : State) (e : EventBody) (u : RecNo) : (s.offer e).rcd u = s.rcd u := by
  simp [State.rcd]
@[simp] theorem State.credit_offer (s : State) (e : EventBody) (cn : CreditNo) : (s.offer e).credit cn = s.credit cn := by
  simp [State.credit]
@[simp] theorem State.win_post (s : State) (w : WIdx) (e : EventBody) (v : WIdx) : (s.post w e).win v = s.win v := by
  simp [State.win]
@[simp] theorem State.area_post (s : State) (w : WIdx) (e : EventBody) (b : AIdx) : (s.post w e).area b = s.area b := by
  simp [State.area]
@[simp] theorem State.rcd_post (s : State) (w : WIdx) (e : EventBody) (u : RecNo) : (s.post w e).rcd u = s.rcd u := by
  simp [State.rcd]
@[simp] theorem State.credit_post (s : State) (w : WIdx) (e : EventBody) (cn : CreditNo) : (s.post w e).credit cn = s.credit cn := by
  simp [State.credit]
@[simp] theorem State.win_answerWrite (s : State) (src : Source) (tag : Tag) (res : Result) (v : WIdx) : (s.answerWrite src tag res).win v = s.win v := by
  simp [State.win]
@[simp] theorem State.area_answerWrite (s : State) (src : Source) (tag : Tag) (res : Result) (b : AIdx) : (s.answerWrite src tag res).area b = s.area b := by
  simp [State.area]
@[simp] theorem State.credit_answerWrite (s : State) (src : Source) (tag : Tag) (res : Result) (cn : CreditNo) : (s.answerWrite src tag res).credit cn = s.credit cn := by
  simp [State.credit]
@[simp] theorem State.win_waitWrite (s : State) (src : Source) (tag : Tag) (wt : Wait) (v : WIdx) : (s.waitWrite src tag wt).win v = s.win v := by
  simp [State.win]
@[simp] theorem State.area_waitWrite (s : State) (src : Source) (tag : Tag) (wt : Wait) (b : AIdx) : (s.waitWrite src tag wt).area b = s.area b := by
  simp [State.area]
@[simp] theorem State.credit_waitWrite (s : State) (src : Source) (tag : Tag) (wt : Wait) (cn : CreditNo) : (s.waitWrite src tag wt).credit cn = s.credit cn := by
  simp [State.credit]
@[simp] theorem State.win_answerPending (s : State) (g : Group) (res : Result) (v : WIdx) : (s.answerPending g res).win v = s.win v := by
  simp [State.win]
@[simp] theorem State.area_answerPending (s : State) (g : Group) (res : Result) (b : AIdx) : (s.answerPending g res).area b = s.area b := by
  simp [State.area]
@[simp] theorem State.credit_answerPending (s : State) (g : Group) (res : Result) (cn : CreditNo) : (s.answerPending g res).credit cn = s.credit cn := by
  simp [State.credit]
@[simp] theorem State.win_endHold (s : State) (x : Write) (v : WIdx) : (s.endHold x).win v = s.win v := by
  simp [State.win]
@[simp] theorem State.area_endHold (s : State) (x : Write) (b : AIdx) : (s.endHold x).area b = s.area b := by
  simp [State.area]
@[simp] theorem State.rcd_endHold (s : State) (x : Write) (u : RecNo) : (s.endHold x).rcd u = s.rcd u := by
  simp [State.rcd]
@[simp] theorem State.credit_endHold (s : State) (x : Write) (cn : CreditNo) : (s.endHold x).credit cn = s.credit cn := by
  simp [State.credit]
@[simp] theorem State.win_endWrite (s : State) (x : Write) (res : Result) (v : WIdx) : (s.endWrite x res).win v = s.win v := by
  simp [State.win]
@[simp] theorem State.area_endWrite (s : State) (x : Write) (res : Result) (b : AIdx) : (s.endWrite x res).area b = s.area b := by
  simp [State.area]
@[simp] theorem State.credit_endWrite (s : State) (x : Write) (res : Result) (cn : CreditNo) : (s.endWrite x res).credit cn = s.credit cn := by
  simp [State.credit]

end Sys2Proof.Machine
end

