-- ==== Sys2Proof/Laws/Find.lean ====
section
/-! SUPPORT. What the searches of the model find: the lowest free transit record, credit, slot and hold slot, the window of a line, the
record of a write, the entry of a line. -/

namespace Sys2Proof.Machine

/-- A search over all indexes finds `k` exactly when `k` is the lowest that passes. -/
theorem find_finRange_eq_some {n : Nat} (p : Fin n → Bool) (k : Fin n) :
    (List.finRange n).find? p = some k ↔ p k = true ∧ ∀ j : Fin n, j < k → p j = false := by
  rw [List.find?_eq_some_iff_getElem]
  simp only [List.length_finRange, List.getElem_finRange]
  constructor
  · rintro ⟨hp, i, hi, e, hb⟩
    refine ⟨hp, fun j hj => ?_⟩
    have : (⟨i, by simpa using hi⟩ : Fin n) = k := by simpa using e
    subst this
    simpa using hb j.val (by simpa [Fin.lt_def] using hj)
  · rintro ⟨hp, hb⟩
    refine ⟨hp, k.val, by simp, by simp, fun j hj => ?_⟩
    have : j < n := lt_trans hj k.isLt
    simpa using hb ⟨j, this⟩ (by simpa [Fin.lt_def] using hj)

/-- A search over all indexes that only one index can pass finds that one. -/
theorem find_finRange_unique {n : Nat} (p : Fin n → Bool) (k : Fin n) (hk : p k = true) (hu : ∀ j, j ≠ k → p j = false) :
    (List.finRange n).find? p = some k :=
  (find_finRange_eq_some p k).2 ⟨hk, fun j hj => hu j (ne_of_lt hj)⟩

/-- A search over all indexes that finds nothing. -/
theorem find_finRange_eq_none {n : Nat} (p : Fin n → Bool) :
    (List.finRange n).find? p = none ↔ ∀ j, p j = false := by
  simp [List.find?_eq_none]

/-- A search over a list that only one element can pass finds that one. -/
theorem find_unique {α : Type} (l : List α) (p : α → Bool) (x : α) (hx : x ∈ l) (hp : p x = true)
    (hu : ∀ y ∈ l, p y = true → y = x) : l.find? p = some x := by
  cases h : l.find? p with
  | none => exact absurd hp (by simpa using (List.find?_eq_none.1 h) x hx)
  | some y => rw [hu y (List.mem_of_find?_eq_some h) (List.find?_some h)]

/-! ### Transit records -/

theorem State.freeRcd?_eq_some (s : State) (t : RecNo) :
    s.freeRcd? = some t ↔ s.rcd t = none ∧ ∀ u : RecNo, u < t → s.rcd u ≠ none := by
  simp [State.freeRcd?, find_finRange_eq_some, ← Option.ne_none_iff_isSome]

/-- Where the port asserts ready there is a record to take. -/
theorem State.freeRcd_of_upReady (s : State) (h : s.upReady = true) : ∃ t, s.freeRcd? = some t ∧ s.rcd t = none := by
  simp only [State.upReady, Bool.and_eq_true, Option.isSome_iff_exists] at h
  obtain ⟨⟨⟨t, ht⟩, -⟩, -⟩ := h
  exact ⟨t, ht, ((s.freeRcd?_eq_some t).1 ht).1⟩

theorem State.isDuplicate_eq_false (s : State) (r : UpRequest) :
    s.isDuplicate r = false ↔ ∀ u : RecNo, ∀ x ∈ s.rcd u, ¬(x.source = r.source ∧ x.tag = r.tag) := by
  simp only [State.isDuplicate, List.any_eq_false, State.rcd]
  constructor
  · intro h u x hx
    have := h (s.transit[u]) (by simp)
    rw [Option.mem_def] at hx
    rw [hx] at this
    simpa using this
  · intro h o ho
    rw [Vector.mem_toList_iff, Vector.mem_iff_getElem] at ho
    obtain ⟨i, hi, rfl⟩ := ho
    have := h ⟨i, hi⟩
    split
    · next x hx => simpa using this x (by simpa using hx)
    · simp

/-- The record of a write on path GROUP with an unanswered record `t`, if no other record bears its source and tag. -/
theorem State.groupRcd?_unique (s : State) (src : Source) (tag : Tag) (t : RecNo) (x : Transit)
    (hx : s.rcd t = some x) (hs : x.source = src) (ht : x.tag = tag) (hp : x.path = .group) (hr : x.result = none)
    (hu : ∀ u : RecNo, u ≠ t → ∀ y ∈ s.rcd u, ¬(y.source = src ∧ y.tag = tag)) : s.groupRcd? src tag = some t := by
  apply find_finRange_unique
  · simp [hx, hs, ht, hp, hr]
  · intro u hne
    split
    · next y hy =>
      have := hu u hne y (by simpa using hy)
      by_cases h1 : y.source = src <;> by_cases h2 : y.tag = tag <;> simp_all
    · rfl

/-- The record found for a write is on path GROUP. -/
theorem State.groupRcd?_path (s : State) {src : Source} {tag : Tag} {t : RecNo} (h : s.groupRcd? src tag = some t) :
    ∀ r ∈ s.rcd t, r.path = .group := by
  intro r hr
  have h1 := List.find?_some h
  rw [Option.mem_def] at hr
  simp only [hr, Bool.and_eq_true, beq_iff_eq] at h1
  exact h1.1.2

/-! ### Windows, credits, slots, hold slots -/

theorem State.windowAt?_of_inWindow (s : State) (l : Line) (w : WIdx) (h : s.inWindow l w) : s.windowAt? l = some w := by
  obtain ⟨hs, hc, hu⟩ := h
  apply find_finRange_unique
  · simp [hs, hc]
  · intro v hv
    by_cases he : (s.win v).state = .unused
    · simp [he]
    · simp [hu v hv he]

theorem State.windowAt?_eq_none (s : State) (l : Line) :
    s.windowAt? l = none ↔ ∀ w : WIdx, (s.win w).state = .unused ∨ (s.win w).contains l = false := by
  simp only [State.windowAt?, find_finRange_eq_none]
  apply forall_congr'
  intro w
  by_cases h : (s.win w).state = .unused <;> simp [h]

theorem State.windowAt?_some (s : State) (l : Line) (w : WIdx) (h : s.windowAt? l = some w) :
    (s.win w).state ≠ .unused ∧ (s.win w).contains l = true := by
  have := ((find_finRange_eq_some _ _).1 h).1
  simpa using this

theorem State.freeCredit?_eq_some (s : State) (c : CreditNo) : s.freeCredit? = some c ↔ s.lowestCredit c := by
  simp [State.freeCredit?, find_finRange_eq_some, State.lowestCredit]

theorem State.freeCredit?_eq_none (s : State) : s.freeCredit? = none ↔ ∀ c, s.credit c ≠ .free := by
  simp [State.freeCredit?]

theorem State.freeHold?_eq_some (s : State) (k : HoldNo) :
    s.freeHold? = some k ↔ (∀ h ∈ s.holds, h.slot ≠ k) ∧ ∀ j : HoldNo, j < k → ∃ h ∈ s.holds, h.slot = j := by
  simp [State.freeHold?, find_finRange_eq_some]

theorem State.freeHold?_eq_none (s : State) : s.freeHold? = none ↔ ∀ k : HoldNo, ∃ h ∈ s.holds, h.slot = k := by
  simp [State.freeHold?]

theorem State.freeSlot?_eq_none (s : State) (a : AIdx) : s.freeSlot? a = none ↔ s.areaFull a := by
  simp [State.freeSlot?, State.areaFull]

theorem State.freeSlot?_of_lowestFree (s : State) (a : AIdx) (k : Nat) (h : s.lowestFree a k) : s.freeSlot? a = some k := by
  obtain ⟨h1, h2, h3, h4⟩ := h
  rw [State.freeSlot?, List.find?_eq_some_iff_getElem]
  refine ⟨by simpa using h3, k - (s.area a).first, by simp; omega, by simp; omega, fun j hj => ?_⟩
  obtain ⟨e, he, hs⟩ := h4 ((s.area a).first + j) (by omega) (by omega)
  simpa using ⟨e, he, hs⟩

/-- The slot found lies in the area's extent, and no entry stands in it. -/
theorem State.freeSlot?_some (s : State) (a : AIdx) (k : Nat) (h : s.freeSlot? a = some k) :
    (s.area a).holds k = true ∧ ∀ e ∈ s.slots, e.slot ≠ k := by
  have h1 := List.find?_some h
  have h2 := List.mem_of_find?_eq_some h
  simp only [List.mem_range'_1] at h2
  refine ⟨by simp [Area.holds, h2], by simpa using h1⟩

/-- Where no entry of the group stands at the line, no entry bears this window, group number and line. -/
theorem State.entryAt?_eq_none (s : State) (w : WIdx) (n : Byte) (l : Line) :
    s.entryAt? w n l = none ↔ ∀ e ∈ s.slots, e.key ≠ (w, n, l) := by
  simp only [State.entryAt?, List.find?_eq_none, Entry.ofGroup, Entry.key]
  refine forall₂_congr fun e _ => ?_
  simp [Prod.ext_iff, and_assoc]

theorem State.heldAt?_of_mem (s : State) (h : Held) (hn : (s.holds.map Held.slot).Nodup) (hm : h ∈ s.holds) :
    s.heldAt? h.slot = some h :=
  find_unique _ _ h hm (by simp) fun y hy e =>
    (List.inj_on_of_nodup_map hn) hy hm (by simpa using e)

end Sys2Proof.Machine
end

