-- ==== Sys2Proof/Laws/Arrival.lean ====
section
/-! SUPPORT. A request on its way in: its acceptance into the lowest free transit record, its classification, and what the answers,
refusals and holds of an arriving write are. -/

namespace Sys2Proof.Machine

/-- A request that meets asserted ready and a channel free for it is accepted into the lowest-numbered free record. -/
theorem accept_eq (s : State) (r : UpRequest) (hc : s.channelFor r) (hu : s.upReady = true) :
    ∃ t, s.rcd t = none ∧ s.freeRcd? = some t ∧ exec (.upstreamRequest r) s = .next (s.clearChannel.accept t r) := by
  obtain ⟨t, h1, h2⟩ := s.freeRcd_of_upReady hu
  refine ⟨t, h2, h1, ?_⟩
  rw [exec, execUpstreamRequest, State.present]
  rcases hw : s.upWaiting with _ | q
  · have : s.acceptWaiting = s := by simp [State.acceptWaiting, hw]
    rw [if_neg (by simp), this, State.receive, if_pos hu, h1]
  · have := hc q (by simp [hw])
    subst this
    rw [if_pos rfl, State.receive, if_pos hu, h1]

/-- A request that passes the checks of acceptance is classified. -/
theorem classify_eq (s : State) (r : UpRequest) (hc : s.classifies r) :
    ∃ t, s.rcd t = none ∧ exec (.upstreamRequest r) s = .next (s.clearChannel.classify t r) := by
  obtain ⟨h0, hu, hl, hd⟩ := hc
  obtain ⟨t, h1, h2, h3⟩ := accept_eq s r h0 hu
  refine ⟨t, h1, ?_⟩
  have : s.clearChannel.isDuplicate r = false := by
    rw [State.isDuplicate_eq_false]; exact hd
  rw [h3, State.accept, if_neg (by simp [this]; exact hl)]

/-- A write into a live window is taken by the window controller as the record of a write on path GROUP. -/
theorem write_eq (s : State) (r : UpRequest) (w : WIdx) (hc : s.classifies r) (hk : r.kind = .write) (hw : s.inWindow r.line w)
    (hl : (s.win w).state.live = true) :
    ∃ t, s.rcd t = none ∧ (∀ u ≠ t, ∀ x ∈ s.rcd u, ¬(x.source = r.source ∧ x.tag = r.tag)) ∧
      exec (.upstreamRequest r) s = .next ((s.intake t (groupRecord r w)).takeWrite (arrivalWrite r w)) := by
  obtain ⟨t, h1, h2⟩ := classify_eq s r hc
  refine ⟨t, h1, fun u _ x hx => hc.2.2.2 u x hx, ?_⟩
  have hwa : s.clearChannel.windowAt? r.line = some w := State.windowAt?_of_inWindow _ _ w hw
  have hl' : (s.clearChannel.win w).state.live = true := hl
  rw [h2, State.classify, hwa]
  simp only [hl', if_true, State.windowRequest, hk]
  rfl

/-- A read into a live window is taken by the read merge unit as the record of a read on path MERGE. -/
theorem read_eq (s : State) (r : UpRequest) (w : WIdx) (hc : s.classifies r) (hk : r.kind = .read) (hw : s.inWindow r.line w)
    (hl : (s.win w).state.live = true) :
    ∃ t, s.rcd t = none ∧
      exec (.upstreamRequest r) s =
        .next ((s.intake t { acceptedRecord r with path := .merge, window := some w }).takeRead t w r.source r.line r.lanes) := by
  obtain ⟨t, h1, h2⟩ := classify_eq s r hc
  refine ⟨t, h1, ?_⟩
  have hwa : s.clearChannel.windowAt? r.line = some w := State.windowAt?_of_inWindow _ _ w hw
  have hl' : (s.clearChannel.win w).state.live = true := hl
  rw [h2, State.classify, hwa]
  simp only [hl', if_true, State.windowRequest, hk]
  rfl

/-! ### The record just taken -/

theorem rcd_intake (s : State) (t u : RecNo) (x : Transit) : (s.intake t x).rcd u = if u = t then some x else s.rcd u :=
  State.rcd_setRcd s t u (some x)

theorem setRcd_intake (s : State) (t : RecNo) (x y : Transit) : (s.intake t x).setRcd t (some y) = s.intake t y := by
  simp [State.intake, State.setRcd]

/-- The arriving write is found by its source and tag. -/
theorem groupRcd_intake (s : State) (r : UpRequest) (w : WIdx) (t : RecNo)
    (h : ∀ u ≠ t, ∀ x ∈ s.rcd u, ¬(x.source = r.source ∧ x.tag = r.tag)) :
    (s.intake t (groupRecord r w)).groupRcd? r.source r.tag = some t := by
  apply State.groupRcd?_unique _ _ _ t (groupRecord r w)
  · simp [rcd_intake]
  · rfl
  · rfl
  · rfl
  · rfl
  · intro u hu y hy
    rw [rcd_intake, if_neg hu] at hy
    exact h u hu y hy

/-- The answer of an arriving write. -/
theorem endWrite_intake (s : State) (r : UpRequest) (w : WIdx) (t : RecNo) (res : Result)
    (h : ∀ u ≠ t, ∀ x ∈ s.rcd u, ¬(x.source = r.source ∧ x.tag = r.tag)) :
    (s.intake t (groupRecord r w)).endWrite (arrivalWrite r w) res =
      s.intake t { groupRecord r w with wait := .answer, result := some res } := by
  simp only [State.endWrite, State.endHold, arrivalWrite, State.answerWrite, groupRcd_intake s r w t h, State.answerRcd, State.modRcd]
  rw [rcd_intake, if_pos rfl]
  exact setRcd_intake _ _ _ _

/-- The refusal of an arriving write. -/
theorem refuseWrite_intake (s : State) (r : UpRequest) (w : WIdx) (t : RecNo) (c : Cause)
    (h : ∀ u ≠ t, ∀ x ∈ s.rcd u, ¬(x.source = r.source ∧ x.tag = r.tag)) :
    (s.intake t (groupRecord r w)).refuseWrite (arrivalWrite r w) c =
      ((s.intake t { groupRecord r w with wait := .answer, result := some .refused }).post w
        (evWriteRefused w r.source c r.line)).bumpRefused w := by
  rw [State.refuseWrite, endWrite_intake _ _ _ _ _ h]
  rfl

/-- The hold of an arriving write in the lowest-numbered free hold slot. -/
theorem holdWrite_intake (s : State) (r : UpRequest) (w : WIdx) (t : RecNo) (k : HoldNo) (why : HoldReason)
    (h : ∀ u ≠ t, ∀ x ∈ s.rcd u, ¬(x.source = r.source ∧ x.tag = r.tag)) (hk : s.freeHold? = some k) :
    (s.intake t (groupRecord r w)).holdWrite (arrivalWrite r w) why =
      { s.intake t { groupRecord r w with wait := .hold } with holds := s.holds ++ [s.newHeld (arrivalWrite r w) k why] } := by
  have hk' : (s.intake t (groupRecord r w)).freeHold? = some k := hk
  let a : State :=
    { s.intake t (groupRecord r w) with
      holds := (s.intake t (groupRecord r w)).holds ++ [(s.intake t (groupRecord r w)).newHeld (arrivalWrite r w) k why] }
  have h1 : a.groupRcd? r.source r.tag = some t := groupRcd_intake s r w t h
  have h2 : a.rcd t = some (groupRecord r w) := by
    have := rcd_intake s t t (groupRecord r w)
    rw [if_pos rfl] at this
    exact this
  have h3 : (s.intake t (groupRecord r w)).holdWrite (arrivalWrite r w) why = a.waitWrite r.source r.tag .hold := by
    simp only [State.holdWrite, arrivalWrite, hk']
    rfl
  rw [h3, State.waitWrite, h1]
  simp only [State.modRcd, h2, Option.map]
  simp only [a, State.setRcd, State.intake, Vector.set_set]
  rfl

end Sys2Proof.Machine
end

