-- ==== Sys2Proof/Laws/Closed.lean ====
section
/-! SUPPORT. Every operation on write groups keeps a relation between states that the updates it is made of keep: one lemma for each
operation, for every such relation. Laws/Frames.lean lists the relations. -/

namespace Sys2Proof.Machine

/-- `y` is configured as `x` is: the fields of WRITE_WINDOW are the same, and neither is UNUSED without the other. -/
def Window.sameConfig (x y : Window) : Prop :=
  (y.base = x.base ∧ y.size = x.size ∧ y.area = x.area ∧ y.trigger = x.trigger ∧ y.marker = x.marker ∧ y.policy = x.policy ∧
    y.holdLimit = x.holdLimit ∧ y.ageLimit = x.ageLimit ∧ y.ageAction = x.ageAction ∧ y.enables = x.enables) ∧
    (y.state = .unused ↔ x.state = .unused)

theorem Window.sameConfig.of_state {x y : Window} (h : (y.base = x.base ∧ y.size = x.size ∧ y.area = x.area ∧
    y.trigger = x.trigger ∧ y.marker = x.marker ∧ y.policy = x.policy ∧ y.holdLimit = x.holdLimit ∧ y.ageLimit = x.ageLimit ∧
    y.ageAction = x.ageAction ∧ y.enables = x.enables)) (hx : x.state ≠ .unused) (hy : y.state ≠ .unused) : x.sameConfig y :=
  ⟨h, by simp [hx, hy]⟩

theorem Window.sameConfig_freeze (x : Window) : x.sameConfig x.freeze := by
  unfold Window.freeze
  split <;> simp_all [Window.sameConfig]

theorem Window.sameConfig_unfreeze (x : Window) : x.sameConfig x.unfreeze := by
  unfold Window.unfreeze
  split <;> simp_all [Window.sameConfig]

/-- A relation between the states before and after, kept by the updates of which the operations on write groups are made. -/
structure Closed (R : State → State → Prop) : Prop where
  refl : ∀ s, R s s
  trans : ∀ {s t u}, R s t → R t u → R s u
  /-- a window record, with its group queue, takes any value with the same configuration -/
  setWin : ∀ (s : State) w x, (s.win w).sameConfig x → R s (s.setWin w x)
  /-- an area's used count takes any value -/
  setUsed : ∀ s a n, R s (s.setArea a { s.area a with used := n })
  /-- a transit record on path GROUP changes, but not its path, nor to a wait for a credit or memory -/
  modRcd : ∀ (s : State) t f, (∀ r ∈ s.rcd t, r.path = .group) →
    (∀ r, (f r).path = r.path ∧ (f r).wait ≠ .credit ∧ (f r).wait ≠ .downstream) → R s (s.modRcd t f)
  /-- the hold list takes any value -/
  holds : ∀ (s : State) (l : List Held), R s { s with holds := l }
  /-- an event is offered -/
  offer : ∀ s e, R s (s.offer e)
  /-- slots are freed -/
  freeSlots : ∀ (s : State) (p : Entry → Bool), R s { s with slots := s.slots.filter p }
  /-- entries change, but not in their slots, groups and lines -/
  mapSlots : ∀ (s : State) (f : Entry → Entry), (∀ e, (f e).slot = e.slot ∧ (f e).key = e.key) →
    R s { s with slots := s.slots.map f }
  /-- an entry of a new line takes a FREE slot of an area -/
  insertSlot : ∀ (s : State) (e : Entry) (a : AIdx), (s.area a).holds e.slot = true →
    (∀ y ∈ s.slots, y.slot ≠ e.slot ∧ y.key ≠ e.key) → R s { s with slots := insertEntry e s.slots }

variable {R : State → State → Prop}

/-- A fold of operations that keep the relation keeps it. -/
theorem Closed.foldl (hR : Closed R) {α : Type} (f : State → α → State) (hf : ∀ s a, R s (f s a)) (l : List α) (s : State) :
    R s (l.foldl f s) := by
  induction l generalizing s with
  | nil => exact hR.refl s
  | cons a l ih => exact hR.trans (hf s a) (ih (f s a))

/-! ### The named operations -/

theorem Closed.modWin (hR : Closed R) (s : State) (w : WIdx) (f : Window → Window)
    (hf : ∀ x : Window, x.sameConfig (f x) := by intro _; exact ⟨⟨rfl, rfl, rfl, rfl, rfl, rfl, rfl, rfl, rfl, rfl⟩, Iff.rfl⟩) :
    R s (s.modWin w f) :=
  hR.setWin s w _ (hf _)
theorem Closed.windowTrigger (hR : Closed R) (s : State) (w : WIdx) : R s (s.windowTrigger w) := hR.holds s _
theorem Closed.areaTrigger (hR : Closed R) (s : State) (a : AIdx) : R s (s.areaTrigger a) := hR.holds s _
theorem Closed.dropHold (hR : Closed R) (s : State) (k : HoldNo) : R s (s.dropHold k) := hR.holds s _
theorem Closed.bumpRefused (hR : Closed R) (s : State) (w : WIdx) : R s (s.bumpRefused w) := hR.modWin s w _
theorem Closed.bumpDiscarded (hR : Closed R) (s : State) (w : WIdx) : R s (s.bumpDiscarded w) := hR.modWin s w _
theorem Closed.setOldest (hR : Closed R) (s : State) (w : WIdx) (g : Group) : R s (s.setOldest w g) := hR.modWin s w _
theorem Closed.lowerUsed (hR : Closed R) (s : State) (a : AIdx) (k : Nat) : R s (s.lowerUsed a k) := hR.setUsed s a _

theorem Closed.post (hR : Closed R) (s : State) (w : WIdx) (e : EventBody) : R s (s.post w e) := by
  unfold State.post; split
  · exact hR.offer s e
  · exact hR.refl _

theorem Closed.answerWrite (hR : Closed R) (s : State) (src : Source) (tag : Tag) (r : Result) : R s (s.answerWrite src tag r) := by
  unfold State.answerWrite; split
  · next t ht => exact hR.modRcd s t _ (s.groupRcd?_path ht) fun _ => ⟨rfl, by simp [Transit.answered], by simp [Transit.answered]⟩
  · exact hR.refl _

theorem Closed.waitWrite (hR : Closed R) (s : State) (src : Source) (tag : Tag) (wt : Wait)
    (h : wt ≠ .credit ∧ wt ≠ .downstream := by decide) : R s (s.waitWrite src tag wt) := by
  unfold State.waitWrite; split
  · next t ht => exact hR.modRcd s t _ (s.groupRcd?_path ht) fun _ => ⟨rfl, h⟩
  · exact hR.refl _

theorem Closed.freeGroupSlots (hR : Closed R) (s : State) (w : WIdx) (n : Byte) : R s (s.freeGroupSlots w n) := by
  unfold State.freeGroupSlots
  dsimp only
  split
  · exact hR.refl _
  · exact hR.trans (hR.freeSlots s _) (hR.trans (hR.lowerUsed _ _ _) (hR.areaTrigger _ _))

theorem Closed.endHold (hR : Closed R) (s : State) (x : Write) : R s (s.endHold x) := by
  unfold State.endHold; split
  · exact hR.dropHold s _
  · exact hR.refl _

theorem Closed.endWrite (hR : Closed R) (s : State) (x : Write) (r : Result) : R s (s.endWrite x r) :=
  hR.trans (hR.endHold s x) (hR.answerWrite _ _ _ _)

theorem Closed.answerPending (hR : Closed R) (s : State) (g : Group) (r : Result) : R s (s.answerPending g r) := by
  unfold State.answerPending; split
  · exact hR.answerWrite s _ _ _
  · exact hR.refl _

/-! ### Refusals, breaks, openings, seals -/

theorem Closed.refuseWrite (hR : Closed R) (s : State) (x : Write) (c : Cause) : R s (s.refuseWrite x c) := by
  unfold State.refuseWrite
  exact hR.trans (hR.endWrite s x .refused) (hR.trans (hR.post _ _ _) (hR.bumpRefused _ _))

theorem Closed.refuseHeld (hR : Closed R) (s : State) (w : WIdx) : R s (s.refuseHeld w) := by
  unfold State.refuseHeld
  exact hR.foldl _ (fun s h => hR.refuseWrite s _ .windowState) _ s

theorem Closed.breakOpen (hR : Closed R) (s : State) (w : WIdx) (c : Cause) (l : Option Line) : R s (s.breakOpen w c l) := by
  unfold State.breakOpen; split
  · split
    · exact hR.trans (hR.freeGroupSlots s _ _) (hR.trans (hR.modWin _ _ _) (hR.trans (hR.post _ _ _) (hR.modWin _ _ _)))
    · exact hR.refl _
  · exact hR.refl _

theorem Closed.openGroup (hR : Closed R) (s : State) (w : WIdx) (src : Source) : R s (s.openGroup w src) := hR.modWin s w _

theorem Closed.sealOpen (hR : Closed R) (s : State) (w : WIdx) (c : SealCause) (m : Option MarkerData) (pm : Option (Source × Tag)) :
    R s (s.sealOpen w c m pm) := by
  unfold State.sealOpen; split
  · split
    · exact hR.trans (hR.modWin s _ _) (hR.windowTrigger _ _)
    · exact hR.refl _
  · exact hR.refl _

/-! ### Publication, taking, release -/

theorem Closed.offlineIfEmpty (hR : Closed R) (s : State) (w : WIdx) : R s (s.offlineIfEmpty w) := by
  unfold State.offlineIfEmpty; split
  · next h =>
    refine hR.trans (hR.setWin s w _ ?_) (hR.post _ _ _)
    exact .of_state ⟨rfl, rfl, rfl, rfl, rfl, rfl, rfl, rfl, rfl, rfl⟩ (by rw [h.1]; decide) (by simp)
  · exact hR.refl _

theorem Closed.publishOldest (hR : Closed R) (s : State) (w : WIdx) (g : Group) : R s (s.publishOldest w g) :=
  hR.trans (hR.post s _ _) (hR.trans (hR.modWin _ _ _) (hR.trans (hR.answerPending _ _ _) (hR.trans (hR.modWin _ _ _) (hR.windowTrigger _ _))))

theorem Closed.takeLoop (hR : Closed R) (n : Nat) (s : State) (w : WIdx) : R s (State.takeLoop n s w) := by
  induction n generalizing s with
  | zero => exact hR.refl _
  | succ n ih =>
    unfold State.takeLoop
    split
    · exact hR.refl _
    · split
      · split
        · split
          · exact hR.modWin s _ _
          · exact hR.trans (hR.modWin s _ _) (hR.trans (hR.publishOldest _ _ _) (ih _))
        · exact hR.modWin s _ _
      · exact hR.refl _

theorem Closed.drainTake (hR : Closed R) (s : State) (w : WIdx) : R s (s.drainTake w) :=
  hR.trans (hR.takeLoop _ s w) (hR.offlineIfEmpty _ _)

theorem Closed.publish (hR : Closed R) (s : State) (w : WIdx) (g : Group) : R s (s.publish w g) :=
  hR.trans (hR.publishOldest s w g) (hR.drainTake _ _)

theorem Closed.releaseAll (hR : Closed R) (s : State) (w : WIdx) (e : Option (BitVec 16)) : R s (s.releaseAll w e) := by
  unfold State.releaseAll; split
  · exact hR.trans (hR.modWin s _ _) (hR.drainTake _ _)
  · exact hR.refl _

theorem Closed.afterSeal (hR : Closed R) (s : State) (w : WIdx) : R s (s.afterSeal w) := by
  unfold State.afterSeal; split
  · exact hR.releaseAll s w none
  · exact hR.refl _
  · exact hR.refl _

/-! ### Discard, freeze, quiesce -/

theorem Closed.refusePending (hR : Closed R) (s : State) (w : WIdx) (g : Group) : R s (s.refusePending w g) := by
  unfold State.refusePending; split
  · exact hR.trans (hR.answerPending s _ _) (hR.modWin _ _ _)
  · exact hR.refl _

theorem Closed.discardGroup (hR : Closed R) (s : State) (w : WIdx) (g : Group) (c : Cause) : R s (s.discardGroup w g c) :=
  hR.trans (hR.freeGroupSlots s _ _) (hR.trans (hR.refusePending _ _ _) (hR.trans (hR.post _ _ _) (hR.trans (hR.modWin _ _ _) (hR.trans (hR.modWin _ _ _)
    (hR.windowTrigger _ _)))))

theorem Closed.discardUnreleased (hR : Closed R) (s : State) (w : WIdx) (c : Cause) : R s (s.discardUnreleased w c) :=
  hR.foldl _ (fun s g => hR.discardGroup s w g c) _ s

theorem Closed.discardYoungestIf (hR : Closed R) (s : State) (w : WIdx) (st : GState) (c : Cause) : R s (s.discardYoungestIf w st c) := by
  unfold State.discardYoungestIf; split
  · split
    · exact hR.discardGroup s _ _ _
    · exact hR.refl _
  · exact hR.refl _

theorem Closed.freezeWindow (hR : Closed R) (s : State) (w : WIdx) (g : Group) (l : Line) : R s (s.freezeWindow w g l) :=
  hR.trans (hR.modWin s w _ Window.sameConfig_freeze) (hR.trans (hR.post _ _ _) (hR.trans (hR.refuseHeld _ _)
    (hR.breakOpen _ _ _ _)))

/-- A window that is not UNUSED becomes QUIESCING. -/
theorem Closed.setQuiescing (hR : Closed R) (s : State) (w : WIdx) (m : QuiesceMode) (h : (s.win w).state ≠ .unused) :
    R s (s.modWin w fun x => { x with state := .quiescing, quiesceMode := some m }) :=
  hR.setWin s w _ (.of_state ⟨rfl, rfl, rfl, rfl, rfl, rfl, rfl, rfl, rfl, rfl⟩ h (by simp))

theorem Closed.quiesceDrop (hR : Closed R) (s : State) (w : WIdx) (h : (s.win w).state ≠ .unused) : R s (s.quiesceDrop w) :=
  hR.trans (hR.setQuiescing s w .drop h) (hR.trans (hR.refuseHeld _ _) (hR.trans (hR.discardUnreleased _ _ _)
    (hR.offlineIfEmpty _ _)))

theorem Closed.quiesceFinish (hR : Closed R) (s : State) (w : WIdx) (h : (s.win w).state ≠ .unused) : R s (s.quiesceFinish w) :=
  hR.trans (hR.setQuiescing s w .finish h) (hR.trans (hR.refuseHeld _ _) (hR.trans (hR.sealOpen _ _ _ _ _)
    (hR.trans (hR.discardYoungestIf _ _ _ _) (hR.trans (hR.releaseAll _ _ _) (hR.offlineIfEmpty _ _)))))

/-! ### A write taken by the window controller -/

theorem Closed.holdWrite (hR : Closed R) (s : State) (x : Write) (r : HoldReason) : R s (s.holdWrite x r) := by
  unfold State.holdWrite
  split
  · exact hR.holds s _
  · split
    · exact hR.trans (hR.holds s _) (hR.waitWrite _ _ _ _)
    · split
      · exact hR.trans (hR.refuseWrite s _ _) (hR.breakOpen _ _ _ _)
      · exact hR.refuseWrite s _ _
      · exact hR.refuseWrite s _ _

theorem coalesced_same (y : Entry) (x : Write) : (y.coalesced x).slot = y.slot ∧ (y.coalesced x).key = y.key := by
  simp only [Entry.key, Entry.coalesced, and_self]

theorem Closed.coalesce (hR : Closed R) (s : State) (x : Write) (e : Entry) : R s (s.coalesce x e) := by
  have hf : ∀ y : Entry, (if y.slot = e.slot then y.coalesced x else y).slot = y.slot ∧
      (if y.slot = e.slot then y.coalesced x else y).key = y.key := fun y => by
    by_cases hy : y.slot = e.slot
    · rw [if_pos hy]; exact coalesced_same y x
    · rw [if_neg hy]; exact ⟨rfl, rfl⟩
  have h1 := hR.mapSlots s _ hf
  have h2 := hR.endWrite { s with slots := s.slots.map fun (y : Entry) => if y.slot = e.slot then y.coalesced x else y } x .done
  unfold State.coalesce
  exact hR.trans h1 h2

theorem Closed.allocate (hR : Closed R) (s : State) (x : Write) (g : Group) (k : Nat)
    (hk : (s.area (s.win x.window).area).holds k = true)
    (hf : ∀ y ∈ s.slots, y.slot ≠ k ∧ y.key ≠ (newEntry x g k).key) : R s (s.allocate x g k) := by
  unfold State.allocate
  exact hR.trans (hR.insertSlot s (newEntry x g k) _ hk hf) (hR.trans (hR.setUsed _ _ _) (hR.trans (hR.modWin _ _ _)
    (hR.endWrite _ _ _)))

theorem Closed.exhausted (hR : Closed R) (s : State) (x : Write) : R s (s.exhausted x) := by
  unfold State.exhausted; split
  · exact hR.holdWrite s x _
  · exact hR.trans (hR.refuseWrite s _ _) (hR.breakOpen _ _ _ _)

theorem Closed.stage (hR : Closed R) (s : State) (x : Write) (g : Group) : R s (s.stage x g) := by
  unfold State.stage; split
  · exact hR.coalesce s x _
  · split
    · next k hk =>
      obtain ⟨h1, h2⟩ := State.freeSlot?_some s _ k hk
      refine hR.allocate s x g k h1 fun y hy => ⟨h2 y hy, fun he => ?_⟩
      exact (State.entryAt?_eq_none s _ _ _).1 ‹_› y hy he
    · exact hR.exhausted s x

theorem Closed.markerSeal (hR : Closed R) (s : State) (x : Write) (lg : Fin 4) (c : Completion) : R s (s.markerSeal x lg c) := by
  unfold State.markerSeal; split
  · exact hR.trans (hR.endWrite s _ _) (hR.trans (hR.sealOpen _ _ _ _ _) (hR.afterSeal _ _))
  · exact hR.trans (hR.endHold s _) (hR.trans (hR.waitWrite _ _ _ _) (hR.trans (hR.sealOpen _ _ _ _ _) (hR.afterSeal _ _)))

theorem Closed.ownerWrite (hR : Closed R) (s : State) (x : Write) (sh : Shape) (g : Group) : R s (s.ownerWrite x sh g) := by
  unfold State.ownerWrite; split
  · exact hR.stage s x g
  · exact hR.markerSeal s x _ _
  · exact hR.refuseWrite s x _

theorem Closed.brokenWrite (hR : Closed R) (s : State) (x : Write) (sh : Shape) (g : Group) : R s (s.brokenWrite x sh g) := by
  unfold State.brokenWrite; split
  · exact hR.refuseWrite s x _
  · exact hR.trans (hR.refuseWrite s x _) (hR.discardGroup _ _ _ _)
  · exact hR.refuseWrite s x _

theorem Closed.conflictWrite (hR : Closed R) (s : State) (x : Write) : R s (s.conflictWrite x) := by
  unfold State.conflictWrite; split
  · exact hR.refuseWrite s x _
  · exact hR.holdWrite s x _

theorem Closed.queueFullWrite (hR : Closed R) (s : State) (x : Write) : R s (s.queueFullWrite x) := by
  unfold State.queueFullWrite; split
  · exact hR.refuseWrite s x _
  · exact hR.holdWrite s x _

theorem Closed.openingWrite (hR : Closed R) (s : State) (x : Write) (sh : Shape) : R s (s.openingWrite x sh) := by
  unfold State.openingWrite; dsimp only; split
  · exact hR.trans (hR.openGroup s _ _) (hR.ownerWrite _ _ _ _)
  · exact hR.openGroup s _ _

theorem Closed.newGroupWrite (hR : Closed R) (s : State) (x : Write) (sh : Shape) : R s (s.newGroupWrite x sh) := by
  unfold State.newGroupWrite; split
  · exact hR.openingWrite s x sh
  · exact hR.queueFullWrite s x

theorem Closed.groupTests (hR : Closed R) (s : State) (x : Write) (sh : Shape) : R s (s.groupTests x sh) := by
  unfold State.groupTests; split
  · exact hR.newGroupWrite s x sh
  · split
    · split
      · exact hR.ownerWrite s x sh _
      · exact hR.conflictWrite s x
    · split
      · exact hR.brokenWrite s x sh _
      · exact hR.conflictWrite s x
    all_goals exact hR.newGroupWrite s x sh

theorem Closed.takeWrite (hR : Closed R) (s : State) (x : Write) : R s (s.takeWrite x) := by
  unfold State.takeWrite; split
  · unfold State.onlineWrite; split
    · exact hR.refuseWrite s x _
    · exact hR.groupTests s x _
    · exact hR.groupTests s x _
  all_goals exact hR.refuseWrite s x _

/-! ### Takings of the hold unit, the timers and the epoch unit -/

theorem Closed.reevaluate (hR : Closed R) (s : State) (k : HoldNo) : R s (s.reevaluate k) := by
  unfold State.reevaluate; split
  · exact hR.trans (t := s.unpend k) (hR.holds s _) (hR.takeWrite _ _)
  · exact hR.refl _

theorem Closed.pass (hR : Closed R) (s : State) : R s s.pass := hR.foldl _ hR.reevaluate _ s

theorem Closed.expireHeld (hR : Closed R) (s : State) (h : Held) : R s (s.expireHeld h) := by
  have h1 : R s (((s.endWrite h.toWrite .refused).post h.window (evHoldExpired h.window h.source h.line)).bumpRefused h.window) :=
    hR.trans (hR.endWrite s _ _) (hR.trans (hR.post _ _ _) (hR.modWin _ _ _))
  unfold State.expireHeld; dsimp only; split
  · refine hR.trans h1 ?_
    unfold State.areaWaitExpired; split
    · split
      · exact hR.breakOpen _ _ _ _
      · exact hR.refl _
    · exact hR.refl _
  · exact h1
  · exact h1

theorem Closed.ageOut (hR : Closed R) (s : State) (w : WIdx) (g : Group) : R s (s.ageOut w g) := by
  unfold State.ageOut; split
  · exact hR.trans (hR.sealOpen s _ _ _ _) (hR.trans (hR.post _ _ _) (hR.afterSeal _ _))
  · exact hR.breakOpen s _ _ _

theorem Closed.epochAt (hR : Closed R) (s : State) (e : BitVec 16) (w : WIdx) : R s (s.epochAt e w) := by
  unfold State.epochAt; split
  · unfold State.epochAct; split
    · exact hR.refl _
    · exact hR.releaseAll s _ _
    · exact hR.trans (hR.trans (hR.sealOpen s _ _ _ _) (hR.discardYoungestIf _ _ _ _)) (hR.releaseAll _ _ _)
  · exact hR.refl _

/-! ### The drain engine's responses, abandonment, freeze -/

/-- A relation that is kept besides by any change outside the event unit, the areas and the slots. -/
structure WideClosed (R : State → State → Prop) : Prop extends Closed R where
  outside : ∀ s t : State, t.events = s.events → t.nextSeq = s.nextSeq → t.lost = s.lost → t.areas = s.areas →
    t.slots = s.slots → t.windows = s.windows → R s t

/-- A law that such a relation keeps is kept by the same operations. -/
theorem WideClosed.keeps (hR : WideClosed R) (P : State → Prop) (hP : ∀ s t, R s t → P s → P t) :
    WideClosed fun s t => P s → P t where
  refl _ h := h
  trans h1 h2 h := h2 (h1 h)
  setWin s w x h := hP _ _ (hR.setWin s w x h)
  setUsed s a n := hP _ _ (hR.setUsed s a n)
  modRcd s t f h k := hP _ _ (hR.modRcd s t f h k)
  holds s l := hP _ _ (hR.holds s l)
  offer s e := hP _ _ (hR.offer s e)
  freeSlots s p := hP _ _ (hR.freeSlots s p)
  mapSlots s f h := hP _ _ (hR.mapSlots s f h)
  insertSlot s e a h k := hP _ _ (hR.insertSlot s e a h k)
  outside s t h1 h2 h3 h4 h5 h6 := hP _ _ (hR.outside s t h1 h2 h3 h4 h5 h6)

theorem WideClosed.mapCredits (hR : WideClosed R) (s : State) (f : Credit → Credit) : R s (s.mapCredits f) := by
  unfold State.mapCredits
  exact hR.outside _ _ rfl rfl rfl rfl rfl rfl

theorem WideClosed.abandonFaulted (hR : WideClosed R) (s : State) (w : WIdx) : R s (s.abandonFaulted w) := by
  unfold State.abandonFaulted
  split
  · split
    · next g _ _ =>
      exact hR.trans (hR.freeGroupSlots s w g.number) (hR.trans (hR.mapCredits _ _) (hR.trans (hR.answerPending _ g .failed)
        (hR.trans (hR.post _ _ _) (hR.trans (hR.bumpDiscarded _ w) (hR.trans (hR.modWin _ w _) (hR.trans (hR.windowTrigger _ w)
          (hR.drainTake _ w)))))))
    · exact hR.refl _
  · exact hR.refl _

theorem WideClosed.failEntry (hR : WideClosed R) (s : State) (w : WIdx) (g : Group) (e : Entry) : R s (s.failEntry w g e) := by
  unfold State.failEntry
  refine hR.trans (hR.mapSlots s (fun (y : Entry) => if y.slot = e.slot then { y with state := .failed } else y) fun y => ?_)
    (hR.setOldest _ w _)
  by_cases hy : y.slot = e.slot
  · rw [if_pos hy]; exact ⟨rfl, rfl⟩
  · rw [if_neg hy]; exact ⟨rfl, rfl⟩

theorem WideClosed.drainFailure (hR : WideClosed R) (s : State) (w : WIdx) (l : Line) : R s (s.drainFailure w l) := by
  unfold State.drainFailure
  split
  · exact hR.refl _
  · have h1 := fun g f => hR.trans (hR.setOldest s w g) (hR.freezeWindow _ w f l)
    dsimp only
    split
    · exact hR.trans (h1 _ _) (hR.trans (hR.modWin _ _ _ Window.sameConfig_unfreeze) (hR.abandonFaulted _ _))
    · exact h1 _ _

theorem WideClosed.entryFailed (hR : WideClosed R) (s : State) (w : WIdx) (g : Group) (e : Entry) : R s (s.entryFailed w g e) := by
  unfold State.entryFailed; dsimp only; split
  · exact hR.trans (hR.failEntry s w g e) (hR.drainFailure _ _ _)
  · exact hR.failEntry s w g e

theorem WideClosed.freeAcked (hR : WideClosed R) (s : State) (w : WIdx) (g : Group) (e : Entry) : R s (s.freeAcked w g e) :=
  hR.trans (hR.freeSlots s _) (hR.trans (hR.lowerUsed _ _ _) (hR.setOldest _ _ _))

theorem WideClosed.afterAck (hR : WideClosed R) (s : State) (w : WIdx) : R s (s.afterAck w) := by
  unfold State.afterAck; split
  · exact hR.refl _
  · split
    · split
      · exact hR.setOldest s w _
      · exact hR.publish s w _
    · exact hR.refl _

theorem WideClosed.entryDone (hR : WideClosed R) (s : State) (w : WIdx) (g : Group) (e : Entry) : R s (s.entryDone w g e) :=
  hR.trans (hR.freeAcked s w g e) (hR.trans (hR.afterAck _ _) (hR.areaTrigger _ _))

theorem WideClosed.entryResponse (hR : WideClosed R) (s : State) (w : WIdx) (n : Byte) (q : Nat) (r : Result) :
    R s (s.entryResponse w n q r) := by
  unfold State.entryResponse; split
  · split
    · unfold State.entryAnswered; split
      · exact hR.entryDone s w _ _
      · exact hR.entryFailed s w _ _
      · exact hR.entryFailed s w _ _
    · exact hR.refl _
  · exact hR.refl _

theorem WideClosed.markerResponse (hR : WideClosed R) (s : State) (w : WIdx) (n : Byte) (r : Result) :
    R s (s.markerResponse w n r) := by
  unfold State.markerResponse; split
  · split
    · unfold State.markerAnswered; dsimp only; split
      · exact hR.trans (hR.setOldest s w _) (hR.publish _ _ _)
      · exact hR.trans (hR.setOldest s w _) (hR.drainFailure _ _ _)
      · exact hR.trans (hR.setOldest s w _) (hR.drainFailure _ _ _)
    · exact hR.refl _
  · exact hR.refl _

theorem WideClosed.drainResponse (hR : WideClosed R) (s : State) (cl : DrainClient) (r : Result) : R s (s.drainResponse cl r) := by
  unfold State.drainResponse; split
  · exact hR.entryResponse s _ _ _ _
  · exact hR.markerResponse s _ _ _
  · unfold State.orphanResponse; split
    · exact hR.refl _
    · exact hR.drainTake s _

/-- A downstream response, but for the end of a soft reset. -/
theorem WideClosed.downResponse (hR : WideClosed R) (hS : ∀ s : State, R s s.softResetCheck) (s : State) (c : CreditNo)
    (r : Result) (d : LineData) : R s (s.downResponse c r d) := by
  unfold State.downResponse
  split
  · exact hR.refl _
  · split
    · exact hR.refl _
    · exact hR.outside _ _ rfl rfl rfl rfl rfl rfl
    · exact hR.outside _ _ rfl rfl rfl rfl rfl rfl
    · next cl _ =>
      exact hR.trans (hR.outside s (s.setCredit c .free) rfl rfl rfl rfl rfl rfl) (hR.trans (hR.drainResponse _ cl r) (hS _))

/-! ### Requests, grants -/

theorem WideClosed.setRcd (hR : WideClosed R) (s : State) (t : RecNo) (x : Option Transit) : R s (s.setRcd t x) :=
  hR.outside _ _ rfl rfl rfl rfl rfl rfl

theorem WideClosed.takeRead (hR : WideClosed R) (s : State) (t : RecNo) (w : WIdx) (src : Source) (l : Line) (ls : Lanes) :
    R s (s.takeRead t w src l ls) := by
  unfold State.takeRead; dsimp only; split
  · exact hR.outside _ _ rfl rfl rfl rfl rfl rfl
  · exact hR.outside _ _ rfl rfl rfl rfl rfl rfl

theorem WideClosed.classify (hR : WideClosed R) (s : State) (t : RecNo) (r : UpRequest) : R s (s.classify t r) := by
  unfold State.classify; split
  · exact hR.outside _ _ rfl rfl rfl rfl rfl rfl
  · split
    · unfold State.windowRequest; split
      · exact hR.trans (hR.setRcd s t _) (hR.takeRead _ _ _ _ _ _)
      · exact hR.trans (hR.setRcd s t _) (hR.takeWrite _ _)
    · exact hR.outside _ _ rfl rfl rfl rfl rfl rfl

theorem WideClosed.receive (hR : WideClosed R) (s : State) (r : UpRequest) : R s (s.receive r) := by
  unfold State.receive; split
  · split
    · refine hR.trans (hR.outside _ s.clearChannel rfl rfl rfl rfl rfl rfl) ?_
      unfold State.accept; split
      · exact hR.outside _ _ rfl rfl rfl rfl rfl rfl
      · exact hR.classify _ _ _
    · exact hR.refl _
  · exact hR.outside _ _ rfl rfl rfl rfl rfl rfl

theorem WideClosed.acceptWaiting (hR : WideClosed R) (s : State) : R s s.acceptWaiting := by
  unfold State.acceptWaiting; split
  · split
    · exact hR.receive s _
    · exact hR.refl _
  · exact hR.refl _

theorem WideClosed.present (hR : WideClosed R) (s : State) (r : UpRequest) : R s (s.present r) := by
  unfold State.present; split
  · exact hR.receive s r
  · exact hR.trans (hR.acceptWaiting s) (hR.receive _ _)

theorem WideClosed.respond (hR : WideClosed R) (s : State) (t : RecNo) : R s (s.respond t) := by
  unfold State.respond; split
  · exact hR.outside _ _ rfl rfl rfl rfl rfl rfl
  · exact hR.refl _

theorem WideClosed.grantEntry (hR : WideClosed R) (s : State) (c : CreditNo) (w : WIdx) (g : Group) (e : Entry) :
    R s (s.grantEntry c w g e) := by
  refine hR.trans (hR.mapSlots s (fun (y : Entry) => if y.slot = e.slot then { y with state := .issued } else y) fun y => ?_)
    (hR.trans (hR.outside _ ({ s with
      turn := some w
      slots := s.slots.map fun (y : Entry) => if y.slot = e.slot then { y with state := .issued } else y } : State) rfl rfl rfl rfl
        rfl rfl) (hR.trans (hR.setOldest _ w (g.issuedEntry e)) (hR.outside _ _ rfl rfl rfl rfl rfl rfl)))
  by_cases hy : y.slot = e.slot
  · rw [if_pos hy]; exact ⟨rfl, rfl⟩
  · rw [if_neg hy]; exact ⟨rfl, rfl⟩

theorem WideClosed.grantOne (hR : WideClosed R) (s : State) : R s s.grantOne := by
  unfold State.grantOne
  split
  · exact hR.refl _
  · split
    · unfold State.grantForwarder; split
      · exact hR.refl _
      · split
        · exact hR.outside _ _ rfl rfl rfl rfl rfl rfl
        · exact hR.outside _ _ rfl rfl rfl rfl rfl rfl
    · unfold State.grantDrain; split
      · exact hR.refl _
      · split
        · exact hR.grantEntry s _ _ _ _
        · unfold State.grantMarker; split
          · exact hR.trans (hR.outside s { s with turn := some _ } rfl rfl rfl rfl rfl rfl) (hR.trans (hR.setOldest _ _ _)
              (hR.outside _ _ rfl rfl rfl rfl rfl rfl))
          · exact hR.refl _
        · exact hR.refl _
    · exact hR.refl _

theorem WideClosed.issueOne (hR : WideClosed R) (s : State) : R s s.issueOne := by
  unfold State.issueOne; split
  · exact hR.outside _ _ rfl rfl rfl rfl rfl rfl
  · exact hR.refl _

/-! ### Timers, epochs, link reset -/

theorem WideClosed.holdExpiry (hR : WideClosed R) (s : State) (k : HoldNo) : R s (s.holdExpiry k) := by
  unfold State.holdExpiry; split
  · split
    · exact hR.expireHeld s _
    · exact hR.refl _
  · exact hR.refl _

theorem WideClosed.ageExpiry (hR : WideClosed R) (s : State) (w : WIdx) : R s (s.ageExpiry w) := by
  unfold State.ageExpiry; split
  · split
    · split
      · exact hR.ageOut s _ _
      · exact hR.refl _
    · exact hR.refl _
  · exact hR.refl _

theorem WideClosed.tick (hR : WideClosed R) (s : State) : R s s.tick :=
  hR.trans (hR.outside _ { s with timeCount := s.timeCount + 1 } rfl rfl rfl rfl rfl rfl)
    (hR.foldl _ (fun t w => hR.ageExpiry t w) _ _)

theorem WideClosed.epochDeliver (hR : WideClosed R) (s : State) (w : WIdx) : R s (s.epochDeliver w) := by
  unfold State.epochDeliver; split
  · exact hR.refl _
  · exact hR.trans (hR.outside s (s.setDue w _) rfl rfl rfl rfl rfl rfl) (hR.epochAt _ _ w)

theorem WideClosed.epochSample (hR : WideClosed R) (s : State) (l : Bool) : R s (s.epochSample l) := by
  unfold State.epochSample; split
  · exact hR.outside _ _ rfl rfl rfl rfl rfl rfl
  · exact hR.outside _ _ rfl rfl rfl rfl rfl rfl

theorem WideClosed.epochEvent (hR : WideClosed R) (s : State) (d : EpochDelivery) : R s (s.epochEvent d) := by
  exact hR.trans (hR.foldl _ (fun t l => hR.epochSample t l) _ _) (hR.foldl _ (fun t w => hR.epochDeliver t w) _ _)

theorem WideClosed.idle (hR : WideClosed R) (s : State) : R s s.idle := by
  unfold State.idle; split
  · exact hR.epochDeliver s _
  · exact hR.acceptWaiting s

theorem WideClosed.dropRequests (hR : WideClosed R) (s : State) : R s s.dropRequests := by
  unfold State.dropRequests State.mapCredits
  exact hR.outside _ _ rfl rfl rfl rfl rfl rfl

theorem WideClosed.linkReset (hR : WideClosed R) (s : State) (o : List WIdx) : R s (s.linkReset o) := by
  refine hR.trans (hR.dropRequests s) (hR.trans (hR.offer _ _) (hR.foldl _ (fun t w => ?_) _ _))
  exact hR.trans (hR.modWin _ _ _) (hR.trans (hR.discardYoungestIf _ _ _ _) (hR.discardYoungestIf _ _ _ _))

/-! ### The management port -/

/-- A command of the port keeps the relation if its act does. -/
theorem WideClosed.take (hR : WideClosed R) (s t : State) (i : Instr) (g : Bool) (c : Option Status) (a : State → Answer)
    (ha : R s (a s).state) (h : s.take i g c a = .next t) : R s t := by
  unfold State.take at h
  injection h with h
  subst h
  have hp : ∀ b : Answer, R s b.state → R s b.placed := fun b hb => hR.trans hb (hR.outside _ _ rfl rfl rfl rfl rfl rfl)
  split
  · split
    · exact hp _ (hR.refl _)
    · split
      · exact hp _ (hR.refl _)
      · exact hp _ ha
  · exact hR.refl _

theorem WideClosed.softSteps (hR : WideClosed R) (s : State) (o p : List WIdx) :
    R s ((visitOrder p).foldl State.softQuiesce ((visitOrder o).foldl State.softAbandon { s with softReset := true })) := by
  refine hR.trans (hR.outside _ { s with softReset := true } rfl rfl rfl rfl rfl rfl)
    (hR.trans (hR.foldl _ (fun t w => ?_) _ _) (hR.foldl _ (fun t w => ?_) _ _))
  · unfold State.softAbandon; split
    · exact hR.trans (hR.modWin _ _ _ Window.sameConfig_unfreeze) (hR.abandonFaulted _ _)
    · exact hR.refl _
  · unfold State.softQuiesce; split
    · next h => exact hR.quiesceDrop _ _ (by rw [h]; decide)
    · next h => exact hR.setWin _ _ _ ⟨⟨rfl, rfl, rfl, rfl, rfl, rfl, rfl, rfl, rfl, rfl⟩, Iff.rfl⟩
    all_goals exact hR.refl _

end Sys2Proof.Machine
end

