-- ==== Sys2Proof/Laws/Epoch.lean ====
section
/-! SUPPORT. What one sample of EPOCH_IN does, and that an EPOCH_EVENT takes its levels and its windows one after another (R88, R90). -/

namespace Sys2Proof.Machine

/-- A change from low to high is one edge (R88). -/
theorem State.epochSample_rise (s : State) (h : s.epochLevel = false) : s.epochSample true = s.epochEdge := by
  simp [State.epochSample, h]

/-- The falling edge, and a low level that stays, leave only the level (R88). -/
@[simp] theorem State.epochSample_low (s : State) : s.epochSample false = { s with epochLevel := false } := rfl

/-- A high level that stays is no edge (R88). -/
theorem State.epochSample_high (s : State) (h : s.epochLevel = true) : s.epochSample true = s := by
  cases s; simp_all [State.epochSample]

/-- Whatever is sampled, the last sampled level is that level (R88). -/
@[simp] theorem State.epochSample_epochLevel (s : State) (l : Bool) : (s.epochSample l).epochLevel = l := by
  unfold State.epochSample State.epochEdge; cases l <;> cases s.epochLevel <;> rfl

/-- A sample never touches RESET_N. -/
@[simp] theorem State.epochSample_resetAsserted (s : State) (l : Bool) : (s.epochSample l).resetAsserted = s.resetAsserted := by
  unfold State.epochSample State.epochEdge; split <;> rfl

/-- Samples never touch RESET_N. -/
@[simp] theorem State.epochSamples_resetAsserted (s : State) (ls : List Bool) :
    (ls.foldl State.epochSample s).resetAsserted = s.resetAsserted := by
  induction ls generalizing s with
  | nil => rfl
  | cons l ls ih => rw [List.foldl_cons, ih, s.epochSample_resetAsserted l]

/-- A high level that stays for any number of samples is no edge (R88). -/
theorem State.epochEvent_replicate_high (s : State) (h : s.epochLevel = true) (n : Nat) :
    s.epochEvent ⟨List.replicate n true, []⟩ = s := by
  change (List.replicate n true).foldl State.epochSample s = s
  induction n with
  | zero => rfl
  | succ n ih => rw [List.replicate_succ, List.foldl_cons, s.epochSample_high h]; exact ih

/-- The last level of a list is sampled after the others. -/
theorem State.epochEvent_snoc_level (s : State) (ls : List Bool) (l : Bool) :
    s.epochEvent ⟨ls ++ [l], []⟩ = (s.epochEvent ⟨ls, []⟩).epochEvent ⟨[l], []⟩ := List.foldl_append

/-- The last window of a list is delivered to after the others. -/
theorem State.epochEvent_snoc_window (s : State) (ls : List Bool) (ws : List WIdx) (w : WIdx) :
    s.epochEvent ⟨ls, ws ++ [w]⟩ = (s.epochEvent ⟨ls, ws⟩).epochEvent ⟨[], [w]⟩ := List.foldl_append

end Sys2Proof.Machine
end

