-- ==== Sys2Proof/Laws/Frames.lean ====
section
/-! SUPPORT. Three relations that every operation on write groups keeps (Laws/Closed.lean): nothing outside the records of the groups
changes; the event unit changes by posts alone; the law of the areas and the slots stays. -/

namespace Sys2Proof.Machine

/-! ### What a write group cannot touch -/

/-- Every operation on write groups leaves alone what `State.sameOutsideGroups` names. -/
theorem same_closed : Closed State.sameOutsideGroups where
  refl _ := rfl
  trans {s t u} h1 h2 := by
    refine h2.trans ?_
    rw [h1]
  setWin _ _ _ _ := rfl
  setUsed _ _ _ := rfl
  modRcd _ _ _ _ _ := rfl
  holds _ _ := rfl
  offer s e := by unfold State.offer; split <;> rfl
  freeSlots _ _ := rfl
  mapSlots _ _ _ := rfl
  insertSlot _ _ _ _ _ := rfl

/-! ### The event unit -/

/-- The event unit of `t` is that of `s` after the events of some list were offered to it, in their order. -/
def Posts (s t : State) : Prop := ∃ l : List EventBody, t.eventUnit = (l.foldl State.offer s).eventUnit

/-- An offer reads and writes the event unit alone. -/
theorem offer_eventUnit {s t : State} (h : s.eventUnit = t.eventUnit) (e : EventBody) :
    (s.offer e).eventUnit = (t.offer e).eventUnit := by
  simp only [State.eventUnit, Prod.mk.injEq] at h
  obtain ⟨h1, h2, h3⟩ := h
  unfold State.offer
  rw [h1]
  split <;> simp [State.eventUnit, h2, h3]

theorem foldl_offer_eventUnit {s t : State} (h : s.eventUnit = t.eventUnit) (l : List EventBody) :
    (l.foldl State.offer s).eventUnit = (l.foldl State.offer t).eventUnit := by
  induction l generalizing s t with
  | nil => exact h
  | cons e l ih => exact ih (offer_eventUnit h e)

/-- Where the event unit is the same nothing was posted. -/
theorem Posts.of_eq {s t : State} (h : t.eventUnit = s.eventUnit) : Posts s t := ⟨[], h⟩

/-- No operation on write groups, and nothing outside the event unit, changes the event unit but by posts. -/
theorem posts_closed : WideClosed Posts where
  refl _ := .of_eq rfl
  trans := by
    rintro s t u ⟨l, h1⟩ ⟨m, h2⟩
    exact ⟨l ++ m, by rw [List.foldl_append, h2, foldl_offer_eventUnit h1]⟩
  setWin _ _ _ _ := .of_eq rfl
  setUsed _ _ _ := .of_eq rfl
  modRcd _ _ _ _ _ := .of_eq rfl
  holds _ _ := .of_eq rfl
  offer _ e := ⟨[e], rfl⟩
  freeSlots _ _ := .of_eq rfl
  mapSlots _ _ _ := .of_eq rfl
  insertSlot _ _ _ _ _ := .of_eq rfl
  outside s t h1 h2 h3 _ _ _ := .of_eq (by simp only [State.eventUnit, h1, h2, h3])

/-- The law of the event queue depends on the event unit alone. -/
theorem eventLaw_congr {s t : State} (h : t.eventUnit = s.eventUnit) (hs : s.eventLaw) : t.eventLaw := by
  simp only [State.eventUnit, Prod.mk.injEq] at h
  obtain ⟨h1, h2, -⟩ := h
  unfold State.eventLaw
  rw [h1, h2]
  exact hs

/-- An offered event keeps the law of the event queue. -/
theorem eventLaw_offer (s : State) (e : EventBody) (hs : s.eventLaw) : (s.offer e).eventLaw := by
  obtain ⟨h1, h2⟩ := hs
  unfold State.offer
  split
  · next h =>
    refine ⟨by simpa using h, ?_⟩
    simp only [List.map_append, List.map_cons, List.map_nil, List.length_append, List.length_cons, List.length_nil, h2]
    rw [List.range_succ, List.map_append]
    congr 1
    · refine List.map_congr_left fun i hi => ?_
      have hi : i < s.events.length := by simpa using hi
      have : s.events.length + 1 - i = (s.events.length - i) + 1 := by omega
      rw [this]
      apply BitVec.eq_of_toNat_eq
      simp
      omega
    · simp
  · exact ⟨h1, h2⟩

/-- Posts keep the law of the event queue. -/
theorem eventLaw_posts {s t : State} (h : Posts s t) (hs : s.eventLaw) : t.eventLaw := by
  obtain ⟨l, h⟩ := h
  refine eventLaw_congr h ?_
  clear h
  induction l generalizing s with
  | nil => exact hs
  | cons e l ih => exact ih (eventLaw_offer s e hs)

/-- The removal of the oldest events keeps the law of the event queue. -/
theorem eventLaw_drop (s : State) (n : Nat) (hs : s.eventLaw) : State.eventLaw { s with events := s.events.drop n } := by
  obtain ⟨h1, h2⟩ := hs
  refine ⟨by simp only [List.length_drop]; omega, ?_⟩
  simp only [List.map_drop, h2, List.length_drop]
  apply List.ext_getElem
  · simp
  · intro i hi _
    simp only [List.length_drop, List.length_map, List.length_range] at hi
    simp only [List.getElem_drop, List.getElem_map, List.getElem_range]
    congr 2
    omega

/-! ### Configuration -/

theorem Window.sameConfig.trans {x y z : Window} (h : x.sameConfig y) (k : y.sameConfig z) : x.sameConfig z := by
  obtain ⟨⟨h1, h2, h3, h4, h5, h6, h7, h8, h9, h10⟩, h11⟩ := h
  obtain ⟨⟨k1, k2, k3, k4, k5, k6, k7, k8, k9, k10⟩, k11⟩ := k
  exact ⟨⟨k1.trans h1, k2.trans h2, k3.trans h3, k4.trans h4, k5.trans h5, k6.trans h6, k7.trans h7, k8.trans h8, k9.trans h9,
    k10.trans h10⟩, k11.trans h11⟩

theorem Window.sameConfig.refl (x : Window) : x.sameConfig x := ⟨⟨rfl, rfl, rfl, rfl, rfl, rfl, rfl, rfl, rfl, rfl⟩, Iff.rfl⟩

/-- No window's configuration changes but by WRITE_WINDOW and the resets. -/
theorem config_closed : WideClosed fun s t => ∀ w : WIdx, (s.win w).sameConfig (t.win w) where
  refl _ _ := .refl _
  trans h1 h2 w := (h1 w).trans (h2 w)
  setWin s w x h v := by
    by_cases hv : v = w
    · subst hv; rw [State.win_setWin_same]; exact h
    · rw [State.win_setWin_other _ _ hv]; exact .refl _
  setUsed _ _ _ _ := .refl _
  modRcd _ _ _ _ _ _ := .refl _
  holds _ _ _ := .refl _
  offer s e w := by
    have : (s.offer e).windows = s.windows := by unfold State.offer; split <;> rfl
    simp only [State.win, this]
    exact .refl _
  freeSlots _ _ _ := .refl _
  mapSlots _ _ _ _ := .refl _
  insertSlot _ _ _ _ _ _ := .refl _
  outside s t _ _ _ _ _ h w := by
    simp only [State.win, h]
    exact .refl _

theorem Window.configLaw_congr {x y : Window} (h : x.sameConfig y) (hx : x.configLaw) : y.configLaw := by
  obtain ⟨⟨h1, h2, -, h4, h5, -, h7, -⟩, h11⟩ := h
  simp only [Window.configLaw, h1, h2, h4, h5, h7, h11] at *
  exact hx

/-- The configurations decide the law of the configuration. -/
theorem configLaw_congr {s t : State} (h : ∀ w : WIdx, (s.win w).sameConfig (t.win w)) (hs : s.configLaw) : t.configLaw := by
  obtain ⟨h1, h2⟩ := hs
  refine ⟨fun w => Window.configLaw_congr (h w) (h1 w), fun v w hvw hv hw => ?_⟩
  rw [(h v).1.1, (h v).1.2.1, (h w).1.1, (h w).1.2.1]
  exact h2 v w hvw (fun e => hv ((h v).2.2 e)) (fun e => hw ((h w).2.2 e))

/-! ### Areas and slots -/

theorem slotsWf_iff (l : List Entry) :
    slotsWf l = true ↔ (l.map Entry.slot).Pairwise (· < ·) ∧ ∀ e ∈ l, e.slot < Config.stagingSlots := by
  simp [slotsWf]

theorem slotsWf_filter (l : List Entry) (p : Entry → Bool) (h : slotsWf l = true) : slotsWf (l.filter p) = true := by
  rw [slotsWf_iff] at *
  exact ⟨h.1.sublist (List.filter_sublist.map _), fun e he => h.2 e (List.mem_filter.1 he).1⟩

theorem slotsWf_map (l : List Entry) (f : Entry → Entry) (hf : ∀ e, (f e).slot = e.slot) (h : slotsWf l = true) :
    slotsWf (l.map f) = true := by
  rw [slotsWf_iff] at *
  refine ⟨?_, ?_⟩
  · rw [List.map_map, show Entry.slot ∘ f = Entry.slot from funext hf]; exact h.1
  · simp only [List.mem_map, forall_exists_index, and_imp, forall_apply_eq_imp_iff₂, hf]; exact h.2

theorem mem_insertEntry (e y : Entry) (l : List Entry) : y ∈ insertEntry e l ↔ y = e ∨ y ∈ l := by
  induction l with
  | nil => simp [insertEntry]
  | cons x xs ih =>
    unfold insertEntry
    split
    · simp
    · simp only [List.mem_cons, ih]; tauto

theorem insertEntry_perm (e : Entry) (l : List Entry) : (insertEntry e l).Perm (e :: l) := by
  induction l with
  | nil => exact List.Perm.refl _
  | cons x xs ih =>
    unfold insertEntry
    split
    · exact List.Perm.refl _
    · exact (ih.cons x).trans (List.Perm.swap _ _ _)

theorem slotsWf_insert (l : List Entry) (e : Entry) (he : e.slot < Config.stagingSlots) (hf : ∀ y ∈ l, y.slot ≠ e.slot)
    (h : slotsWf l = true) : slotsWf (insertEntry e l) = true := by
  rw [slotsWf_iff] at *
  refine ⟨?_, fun y hy => ?_⟩
  · obtain ⟨h, -⟩ := h
    induction l with
    | nil => simp [insertEntry]
    | cons x xs ih =>
      rw [List.map_cons, List.pairwise_cons] at h
      unfold insertEntry
      split
      · next hlt =>
        simp only [List.map_cons, List.pairwise_cons]
        refine ⟨?_, h.1, h.2⟩
        simp only [List.mem_cons, forall_eq_or_imp]
        exact ⟨hlt, fun a ha => lt_trans hlt (h.1 a ha)⟩
      · next hlt =>
        have hx := hf x (by simp)
        simp only [List.map_cons, List.pairwise_cons]
        refine ⟨?_, ih (fun y hy => hf y (by simp [hy])) h.2⟩
        intro a ha
        obtain ⟨y, hy, rfl⟩ := List.mem_map.1 ha
        rcases (mem_insertEntry _ _ _).1 hy with rfl | hy
        · omega
        · exact h.1 _ (List.mem_map_of_mem hy)
  · rcases (mem_insertEntry _ _ _).1 hy with rfl | hy
    · exact he
    · exact h.2 y hy

/-- The areas' extents and the slots decide the law of the areas and the slots. -/
theorem slotLaw_congr {s t : State} (h1 : ∀ a, (t.area a).first = (s.area a).first) (h2 : ∀ a, (t.area a).count = (s.area a).count)
    (h3 : slotsWf s.slots = true → slotsWf t.slots = true) (h4 : (s.slots.map Entry.key).Nodup → (t.slots.map Entry.key).Nodup)
    (hs : s.slotLaw) : t.slotLaw := by
  obtain ⟨a1, a2, a3, a4⟩ := hs
  refine ⟨fun a => ?_, fun a b => ?_, h3 a3, h4 a4⟩
  · have := a1 a
    simp only [Area.law, h1, h2] at *
    exact this
  · simp only [h1, h2]
    exact a2 a b

/-- No operation on write groups, and nothing outside the areas and the slots, breaks the law of the areas and the slots. -/
theorem slots_closed : WideClosed fun s t => s.slotLaw → t.slotLaw where
  refl _ h := h
  trans h1 h2 h := h2 (h1 h)
  setWin _ _ _ _ h := h
  setUsed s a n := slotLaw_congr (fun b => by rw [State.area_setArea]; split <;> simp_all)
    (fun b => by rw [State.area_setArea]; split <;> simp_all) id id
  modRcd _ _ _ _ _ h := h
  holds _ _ h := h
  offer s e := by
    have h : (s.offer e).areas = s.areas ∧ (s.offer e).slots = s.slots := by unfold State.offer; split <;> exact ⟨rfl, rfl⟩
    exact slotLaw_congr (fun a => by simp only [State.area, h]) (fun a => by simp only [State.area, h]) (by rw [h.2]; exact id)
      (by rw [h.2]; exact id)
  freeSlots s p := slotLaw_congr (fun _ => rfl) (fun _ => rfl) (slotsWf_filter _ p) fun h => h.sublist (List.filter_sublist.map _)
  mapSlots s f hf := slotLaw_congr (fun _ => rfl) (fun _ => rfl) (slotsWf_map _ f fun e => (hf e).1) fun h => by
    simp only [List.map_map]
    rw [show Entry.key ∘ f = Entry.key from funext fun e => (hf e).2]
    exact h
  insertSlot s e a ha hf hs := by
    obtain ⟨a1, a2, a3, a4⟩ := hs
    refine ⟨a1, a2, slotsWf_insert _ e ?_ (fun y hy => (hf y hy).1) a3, ?_⟩
    · have := (a1 a).2
      simp only [Area.holds, Bool.and_eq_true, decide_eq_true_eq] at ha
      omega
    · refine (((insertEntry_perm e s.slots).map Entry.key).nodup_iff).2 (List.nodup_cons.2 ⟨?_, a4⟩)
      intro hm
      obtain ⟨y, hy, he⟩ := List.mem_map.1 hm
      exact (hf y hy).2 he
  outside s t _ _ _ h1 h2 _ := by
    refine slotLaw_congr (fun a => ?_) (fun a => ?_) ?_ ?_ <;> simp [State.area, h1, h2]

end Sys2Proof.Machine
end

