-- ==== Sys2Proof/Laws/Port.lean ====
section
/-! SUPPORT. What the taking of a management command can do, once for all of them: nothing, BUSY, the status of a failed
check, or the owning block's act placed in the result buffer. -/

namespace Sys2Proof.Machine

/-! ### Operand bytes -/

@[simp] theorem windowOf_ofNat (w : WIdx) : windowOf (BitVec.ofNat 8 w.val) = w := by
  apply Fin.ext; simp [windowOf]

@[simp] theorem areaOf_ofNat (a : AIdx) : areaOf (BitVec.ofNat 8 a.val) = a := by
  apply Fin.ext; simp [areaOf]

@[simp] theorem windowCheck_ofNat (w : WIdx) : windowCheck (BitVec.ofNat 8 w.val) = none := by
  have : w.val % 256 < 16 := by omega
  simp [windowCheck, this]

@[simp] theorem areaCheck_ofNat (a : AIdx) : areaCheck (BitVec.ofNat 8 a.val) = none := by
  have : a.val % 256 < 8 := by omega
  simp [areaCheck, this]

theorem windowCheck_high (b : Byte) (h : 16 ≤ b.toNat) : windowCheck b = some .badIndex := by
  simp [windowCheck, Nat.not_lt.2 h]

theorem areaCheck_high (b : Byte) (h : 8 ≤ b.toNat) : areaCheck b = some .badIndex := by
  simp [areaCheck, Nat.not_lt.2 h]

/-! ### The taking -/

/-- The bytes an answer places in the result buffer. -/
def Answer.reply (a : Answer) : List Byte := a.status.code :: if a.status.hasResult then a.result else []

theorem Answer.placed_eq (a : Answer) : a.placed = a.state.withReply a.reply := rfl

/-- The port ready for any frame can receive every frame. -/
theorem canReceive_of_portTakes (s : State) (bytes : List Byte) (h : s.portTakes) : s.canReceive bytes = true := by
  obtain ⟨h1, h2, h3, h4⟩ := h
  simp [State.canReceive, State.receivedBits, h1, h2, h3, h4, Frame.receiving]

/-- Outside COMMAND and OPERANDS, or with RESET_N asserted, no frame can be received. -/
theorem canReceive_off (s : State) (bytes : List Byte) (h : s.resetAsserted = true ∨ s.frame.receiving = false) :
    s.canReceive bytes = false := by
  unfold State.canReceive
  rcases h with h | h <;> simp [h]

/-- A command whose frame cannot be the one under way is not taken. -/
theorem take_off (s : State) (i : Instr) (g : Bool) (c : Option Status) (a : State → Answer) (h : s.canReceive (frameOf i) = false) :
    s.take i g c a = .next s := by
  unfold State.take; rw [if_neg (by simp [h])]

/-- A gated command gives BUSY during a soft reset. -/
theorem take_busy (s : State) (i : Instr) (c : Option Status) (a : State → Answer) (h : s.canReceive (frameOf i) = true)
    (hs : s.softReset = true) : s.take i true c a = .next (s.withReply [0x85#8]) := by
  unfold State.take; rw [if_pos h, if_pos ⟨rfl, hs⟩]; rfl

/-- A failed check of the port gives its status and changes nothing. -/
theorem take_check (s : State) (i : Instr) (g : Bool) (st : Status) (a : State → Answer) (h : s.canReceive (frameOf i) = true)
    (hs : g = true → s.softReset = false) : s.take i g (some st) a = .next (s.withReply [st.code]) := by
  unfold State.take; rw [if_pos h, if_neg (by cases g <;> simp_all)]
  cases st <;> rfl

/-- A command that passes the checks places the owning block's answer. -/
theorem take_act (s : State) (i : Instr) (g : Bool) (a : State → Answer) (h : s.canReceive (frameOf i) = true)
    (hs : g = true → s.softReset = false) : s.take i g none a = .next ((a s).state.withReply (a s).reply) := by
  unfold State.take; rw [if_pos h, if_neg (by cases g <;> simp_all)]; rfl

/-- An answer without result bytes. -/
@[simp] theorem answer_reply (st : Status) (s : State) : (answer st s).reply = [st.code] := by
  cases st <;> rfl

@[simp] theorem answer_state (st : Status) (s : State) : (answer st s).state = s := rfl

/-! ### Lengths -/

@[simp] theorem leBytes_length (n v : Nat) : (leBytes n v).length = n := by
  induction n generalizing v with
  | zero => rfl
  | succ n ih => simp [leBytes, ih]

@[simp] theorem zeros_length (n : Nat) : (zeros n).length = n := by simp [zeros]

@[simp] theorem optBytes_length {α : Type} (n : Nat) (f : α → Nat) (o : Option α) : (optBytes n f o).length = n := by
  cases o <;> simp [optBytes]

@[simp] theorem markerConfig_bytes_length (o : Option MarkerConfig) : (MarkerConfig.bytes o).length = 6 := by
  cases o <;> simp [MarkerConfig.bytes]

theorem window_bytes_length (w : WIdx) (x : Window) : (x.bytes w).length = 32 := by simp [Window.bytes]

theorem area_bytes_length (a : AIdx) (x : Area) : (x.bytes a).length = 7 := by simp [Area.bytes]

theorem group_bytes_length (g : Group) : g.bytes.length = 25 := by simp [Group.bytes]

theorem slot_bytes_length (k : Nat) (o : Option Entry) : (slotBytes k o).length = 17 := by
  cases o <;> simp [slotBytes]

theorem event_bytes_length (e : Event) : e.bytes.length = 13 := by simp [Event.bytes]

end Sys2Proof.Machine
end

