-- ==== Sys2Proof/Laws/Serial.lean ====
section
/-! SUPPORT. The serial side of the port: a byte is its eight bits, a command is what the bytes of its frame complete, and what the edges
of MCLK do to the decoder: byte by byte while a frame is received, byte by byte while a result is clocked out. -/

namespace Sys2Proof.Machine

/-! ### Bits and bytes (R169) -/

@[simp] theorem bitsOf_length (b : Byte) : (bitsOf b).length = 8 := by simp [bitsOf]

@[simp] theorem byteOfBits_bitsOf (b : Byte) : byteOfBits (bitsOf b) = b := by
  have h : ∀ n : Fin 256, byteOfBits (bitsOf (BitVec.ofNat 8 n.val)) = BitVec.ofNat 8 n.val := by decide +kernel
  have hb := h ⟨b.toNat, b.isLt⟩
  simpa using hb

/-- The bits of a byte, spelled out. -/
theorem bitsOf_cons (b : Byte) :
    bitsOf b = [b.getLsbD 7, b.getLsbD 6, b.getLsbD 5, b.getLsbD 4, b.getLsbD 3, b.getLsbD 2, b.getLsbD 1, b.getLsbD 0] := rfl

/-- The number that the `n` low bytes of a number spell. -/
theorem leValue_leBytes (n v : Nat) : leValue (leBytes n v) = v % 256 ^ n := by
  induction n generalizing v with
  | zero => simp [leBytes, leValue, Nat.mod_one]
  | succ n ih =>
    simp only [leBytes, leValue, ih, BitVec.toNat_ofNat]
    rw [show (2 : Nat) ^ 8 = 256 from rfl, Nat.pow_succ (m := n), Nat.mul_comm (256 ^ n) 256, Nat.mod_mul]

/-! ### Commands (R171, R175) -/

/-- A command of the port always answers a next state. -/
theorem exec_port (c : Instr) (hc : c.isPortCommand = true) (s : State) : exec c s = .next (s.afterCommand c) := by
  cases c <;> try cases hc
  case badCommand code =>
    simp only [exec, State.afterCommand]
    unfold execBadCommand
    split <;> rfl
  all_goals rfl

/-- What a frame completes is a command of the port. -/
theorem commandOf_isPort (bytes : List Byte) (c : Instr) (h : commandOf bytes = some c) : c.isPortCommand = true := by
  unfold commandOf at h
  split at h
  · cases h
  · split at h
    · unfold knownCommand? at h
      split at h
      · unfold command0? at h
        split at h
        · cases h; rfl
        · split at h
          · cases h; rfl
          · cases h
      · unfold command1? at h
        iterate 6 (split at h; · cases h; rfl)
        cases h
      · unfold command2? at h
        split at h
        · cases h; rfl
        · split at h
          · cases h; split <;> rfl
          · split at h
            · cases h; split <;> rfl
            · iterate 2 (split at h; · cases h; rfl)
              cases h
      all_goals
        split at h
        · cases h; rfl
        · cases h
    · cases h; rfl

/-! ### Edges of MCLK -/

@[simp] theorem clocks_nil (s : State) : s.clocks [] = s := rfl

@[simp] theorem clocks_cons (s : State) (b : Bool) (l : List Bool) : s.clocks (b :: l) = (s.clock b).clocks l := rfl

theorem clocks_append (s : State) (l m : List Bool) : s.clocks (l ++ m) = (s.clocks l).clocks m := by
  simp [State.clocks, List.foldl_append]

/-- In IDLE the edges are ignored (R169). -/
theorem clocks_idle (s : State) (l : List Bool) (h : s.frame = .idle) : s.clocks l = s := by
  induction l with
  | nil => rfl
  | cons b l ih => rw [clocks_cons, show s.clock b = s by unfold State.clock; rw [h]]; exact ih

theorem clock_receiving (s : State) (b : Bool) (h : s.frame.receiving = true) : s.clock b = s.bitIn b := by
  unfold State.clock
  cases hf : s.frame <;> simp_all [Frame.receiving]

/-- Bits that do not complete a byte are kept while a frame is received (R169). -/
theorem clocks_partial (s : State) (l : List Bool) (h : s.frame.receiving = true) (hl : s.shift.length + l.length < 8) :
    s.clocks l = { s with shift := s.shift ++ l } := by
  induction l generalizing s with
  | nil => simp
  | cons b l ih =>
    rw [List.length_cons] at hl
    have h1 : s.clock b = { s with shift := s.shift ++ [b] } := by
      rw [clock_receiving s b h, State.bitIn, if_pos (by omega)]
    rw [clocks_cons, h1, ih { s with shift := s.shift ++ [b] } h (by simp; omega)]
    simp

/-- The bits that complete the byte under way (R169, R170). -/
theorem clocks_complete (s : State) (l : List Bool) (b : Byte) (h : s.frame.receiving = true) (hl : s.shift ++ l = bitsOf b)
    (hs : s.shift.length < 8) : s.clocks l = s.byteIn b := by
  have hlen : s.shift.length + l.length = 8 := by rw [← List.length_append, hl, bitsOf_length]
  have hne : l ≠ [] := by intro h0; rw [h0] at hlen; simp at hlen; omega
  obtain ⟨m, x, rfl⟩ : ∃ m x, l = m ++ [x] := ⟨l.dropLast, l.getLast hne, (List.dropLast_append_getLast hne).symm⟩
  rw [List.length_append, List.length_singleton] at hlen
  have h2 : s.shift ++ m ++ [x] = bitsOf b := by rw [List.append_assoc]; exact hl
  rw [clocks_append, clocks_partial s m h (by omega), clocks_cons, clocks_nil,
    clock_receiving { s with shift := s.shift ++ m } x h, State.bitIn, if_neg (by simp; omega), h2, byteOfBits_bitsOf]
  rfl

/-- The eight bits of a byte while a frame is received (R169, R170). -/
theorem clocks_byte (s : State) (b : Byte) (h : s.frame.receiving = true) (hs : s.shift = []) : s.clocks (bitsOf b) = s.byteIn b :=
  clocks_complete s _ b h (by rw [hs]; rfl) (by rw [hs]; decide)

/-- A bit clocked out while a result is sent (R169, R170). -/
theorem clock_sending (s : State) (x : Bool) (h : s.frame = .result ∨ s.frame = .trailer) : s.clock x = s.bitOut := by
  unfold State.clock
  rcases h with h | h <;> rw [h]

/-- The eight edges that clock out byte `b`, whatever MDI carries (R169, R170, R171). -/
theorem clocks_byteOut (s : State) (l : List Bool) (b : Byte) (h : s.frame = .result ∨ s.frame = .trailer) (hb : s.mdoByte = some b)
    (hs : s.shift = []) (hl : l.length = 8) : s.clocks l = s.byteOut b := by
  have key : ∀ (k : Nat) (m : List Bool), k < 8 → m.length + k = 8 →
      ({ s with shift := (bitsOf b).take k } : State).clocks m = s.byteOut b := by
    intro k m hk
    induction m generalizing k with
    | nil => intro h0; simp at h0; omega
    | cons x m ih =>
      intro hm
      rw [List.length_cons] at hm
      have hmdo : ({ s with shift := (bitsOf b).take k } : State).mdo = some (b.getLsbD (7 - k)) := by
        unfold State.mdo
        rw [show ({ s with shift := (bitsOf b).take k } : State).mdoByte = s.mdoByte from rfl, hb]
        simp only [Option.map_some, List.length_take, bitsOf_length]
        rw [Nat.min_eq_left (by omega)]
      have htake : (bitsOf b).take k ++ [b.getLsbD (7 - k)] = (bitsOf b).take (k + 1) := by
        rw [List.take_add_one, bitsOf]
        simp [List.getElem?_range (by omega : k < 8)]
      rw [clocks_cons, clock_sending { s with shift := (bitsOf b).take k } x h, State.bitOut, hmdo]
      simp only [List.length_take, bitsOf_length, htake]
      rw [Nat.min_eq_left (by omega)]
      by_cases h7 : k < 7
      · rw [if_pos h7]
        exact ih (k + 1) (by omega) (by omega)
      · rw [if_neg h7]
        have hk7 : k = 7 := by omega
        subst hk7
        have hm0 : m = [] := List.length_eq_zero_iff.1 (by omega)
        rw [hm0, clocks_nil, show (bitsOf b).take (7 + 1) = bitsOf b from List.take_of_length_le (by rw [bitsOf_length]), byteOfBits_bitsOf]
        rfl
  have h0 : ({ s with shift := [] } : State).clocks l = s.byteOut b := key 0 l (by omega) (by omega)
  rw [← hs] at h0
  exact h0

/-- Every relation that the port's own fields and the commands of the port keep is kept by the edges of MCLK. -/
theorem clocks_keep {R : State → State → Prop} (refl : ∀ s, R s s) (trans : ∀ {s t u}, R s t → R t u → R s u)
    (fields : ∀ (s : State) (f : Frame) (b : List Bool) (r m q : List Byte),
      R s { s with frame := f, shift := b, received := r, masterRead := m, buffer := q })
    (port : ∀ c : Instr, c.isPortCommand = true → ∀ s t : State, exec c s = .next t → R s t) (s : State) (mdi : List Bool) :
    R s (s.clocks mdi) := by
  have hout : ∀ s : State, R s s.bitOut := by
    intro s
    unfold State.bitOut
    split
    · exact refl _
    · split
      · exact fields s s.frame _ s.received s.masterRead s.buffer
      · exact fields s _ _ s.received _ _
  have hin : ∀ (s : State) (b : Bool), R s (s.bitIn b) := by
    intro s b
    unfold State.bitIn
    split
    · exact fields s s.frame _ s.received s.masterRead s.buffer
    · unfold State.byteIn
      dsimp only
      split
      · next c hc =>
        exact trans (fields s s.frame _ _ _ s.buffer) (port c (commandOf_isPort _ c hc) _ _ (exec_port c (commandOf_isPort _ c hc) _))
      · exact fields s _ _ _ _ s.buffer
  induction mdi generalizing s with
  | nil => exact refl s
  | cons b l ih =>
    rw [clocks_cons]
    refine trans ?_ (ih _)
    unfold State.clock
    split
    · exact refl s
    · exact hin s b
    · exact hin s b
    · exact hout s
    · exact hout s

end Sys2Proof.Machine
end

