-- ==== Sys2Proof/Laws/Steps.lean ====
section
/-! SUPPORT. A step keeps every relation that the updates it is made of keep: what is left to show of a relation is the end of a soft
reset, a power-on reset, a pop of events, WRITE_WINDOW and WRITE_AREA. -/

namespace Sys2Proof.Machine

variable {R : State → State → Prop}

/-! ### The acts of the port's commands -/

theorem WideClosed.readStats (hR : WideClosed R) (s : State) (w : WIdx) (z : Byte) : R s (s.readStats w z).state := by
  unfold State.readStats; dsimp only; split
  · exact hR.modWin s w _
  · exact hR.refl _

theorem WideClosed.setOnline (hR : WideClosed R) (s : State) (w : WIdx) : R s (s.setOnline w).state := by
  unfold State.setOnline; split
  · next h =>
    rw [answer_state]
    exact hR.setWin s w _ (.of_state ⟨rfl, rfl, rfl, rfl, rfl, rfl, rfl, rfl, rfl, rfl⟩ (by rw [h.1]; decide) (by simp))
  · exact hR.refl _

theorem WideClosed.setOffline (hR : WideClosed R) (s : State) (w : WIdx) (l : Bool) (q : State → State)
    (hq : (s.win w).state ≠ .unused → R s (q s)) : R s (s.setOffline w l q).state := by
  unfold State.setOffline; split
  · split
    · next h => rw [answer_state]; exact hq (by rw [h]; decide)
    all_goals rw [answer_state]; exact hR.refl _
  · exact hR.refl _

theorem WideClosed.sealCommand (hR : WideClosed R) (s : State) (w : WIdx) : R s (s.sealCommand w).state := by
  unfold State.sealCommand; split
  · rw [answer_state]; exact hR.trans (hR.sealOpen s w _ _ _) (hR.afterSeal _ w)
  · exact hR.refl _

theorem WideClosed.releaseCommand (hR : WideClosed R) (s : State) (w : WIdx) : R s (s.releaseCommand w).state := by
  unfold State.releaseCommand; split
  · rw [answer_state]; exact hR.releaseAll s w _
  · exact hR.refl _

theorem WideClosed.discardCommand (hR : WideClosed R) (s : State) (w : WIdx) : R s (s.discardCommand w).state := by
  unfold State.discardCommand; split
  · rw [answer_state]; exact hR.discardUnreleased s w _
  · exact hR.refl _

theorem WideClosed.clearFault (hR : WideClosed R) (s : State) (w : WIdx) (l : Bool) (act : State → State) (ha : ∀ u, R u (act u)) :
    R s (s.clearFault w l act).state := by
  unfold State.clearFault; split
  · split
    · rw [answer_state]; exact hR.trans (hR.modWin s w _ Window.sameConfig_unfreeze) (ha _)
    · exact hR.refl _
  · exact hR.refl _

theorem WideClosed.retryFaulted (hR : WideClosed R) (s : State) (w : WIdx) : R s (s.retryFaulted w) := by
  unfold State.retryFaulted; split
  · split
    · exact hR.setOldest s w _
    · exact hR.refl _
  · exact hR.refl _

/-! ### The step -/

/-- A command that does nothing while RESET_N is asserted. -/
theorem WideClosed.unlessReset (hR : WideClosed R) (s u : State) (b : Bool) (hu : R s u) : R s (if b then s else u) := by
  split
  · exact hR.refl _
  · exact hu

/-- What every command of the port keeps, given what the end of a soft reset, a pop, WRITE_WINDOW and WRITE_AREA keep. -/
theorem WideClosed.execPort (hR : WideClosed R) (hend : ∀ s : State, R s s.softResetCheck)
    (hpop : ∀ (s : State) (n : Nat), R s (s.popEvents n).state)
    (hwin : ∀ (s : State) (w : WIdx) (op : WindowOperands), R s (s.writeWindow w op).state)
    (harea : ∀ (s : State) (a : AIdx) (f n : Nat), R s (s.writeArea a f n).state) (c : Instr) (hc : c.isPortCommand = true)
    (s t : State) (h : exec c s = .next t) : R s t := by
  match c, h with
  | .badCommand b, h =>
    rw [Machine.exec, execBadCommand] at h
    split at h
    · injection h with h; rw [← h]; exact hR.refl _
    · exact hR.take _ _ _ _ _ _ (hR.refl _) h
  | .identify, h =>
    rw [Machine.exec, execIdentify] at h
    refine hR.take _ _ _ _ _ _ ?_ h
    exact hR.refl _
  | .readWindows _ _, h =>
    rw [Machine.exec, execReadWindows] at h
    refine hR.take _ _ _ _ _ _ ?_ h
    exact hR.refl _
  | .writeWindow op, h =>
    rw [Machine.exec, execWriteWindow] at h
    refine hR.take _ _ _ _ _ _ ?_ h
    exact hwin s _ op
  | .setOnline w, h =>
    rw [Machine.exec, execSetOnline] at h
    refine hR.take _ _ _ _ _ _ ?_ h
    exact hR.setOnline s _
  | .setOfflineFinish w m, h =>
    rw [Machine.exec, execSetOfflineFinish] at h
    refine hR.take _ _ _ _ _ _ ?_ h
    exact hR.setOffline s _ _ _ (fun h => hR.quiesceFinish s _ h)
  | .setOfflineDrop w m, h =>
    rw [Machine.exec, execSetOfflineDrop] at h
    refine hR.take _ _ _ _ _ _ ?_ h
    exact hR.setOffline s _ _ _ (fun h => hR.quiesceDrop s _ h)
  | .seal w, h =>
    rw [Machine.exec, execSeal] at h
    refine hR.take _ _ _ _ _ _ ?_ h
    exact hR.sealCommand s _
  | .release w, h =>
    rw [Machine.exec, execRelease] at h
    refine hR.take _ _ _ _ _ _ ?_ h
    exact hR.releaseCommand s _
  | .discard w, h =>
    rw [Machine.exec, execDiscard] at h
    refine hR.take _ _ _ _ _ _ ?_ h
    exact hR.discardCommand s _
  | .clearFaultRetry w a, h =>
    rw [Machine.exec, execClearFaultRetry] at h
    refine hR.take _ _ _ _ _ _ ?_ h
    exact hR.clearFault s _ _ _ fun u => hR.trans (hR.retryFaulted u _) (hR.drainTake _ _)
  | .clearFaultAbandon w a, h =>
    rw [Machine.exec, execClearFaultAbandon] at h
    refine hR.take _ _ _ _ _ _ ?_ h
    exact hR.clearFault s _ _ _ fun u => hR.abandonFaulted u _
  | .readGroups _, h =>
    rw [Machine.exec, execReadGroups] at h
    refine hR.take _ _ _ _ _ _ ?_ h
    exact hR.refl _
  | .readAreas _ _, h =>
    rw [Machine.exec, execReadAreas] at h
    refine hR.take _ _ _ _ _ _ ?_ h
    exact hR.refl _
  | .writeArea a f n, h =>
    rw [Machine.exec, execWriteArea] at h
    refine hR.take _ _ _ _ _ _ ?_ h
    exact harea s _ _ _
  | .readSlots _ _, h =>
    rw [Machine.exec, execReadSlots] at h
    refine hR.take _ _ _ _ _ _ ?_ h
    exact hR.refl _
  | .popEvents n, h =>
    rw [Machine.exec, execPopEvents] at h
    refine hR.take _ _ _ _ _ _ ?_ h
    exact hpop s _
  | .readStats w z, h =>
    rw [Machine.exec, execReadStats] at h
    refine hR.take _ _ _ _ _ _ ?_ h
    exact hR.readStats s _ z
  | .softReset o p, h =>
    rw [Machine.exec, execSoftReset] at h
    refine hR.take _ _ _ _ _ _ ?_ h
    exact hR.trans (hR.softSteps s o p) (hend _)

/-- What the edges of MCLK keep, given what the commands of the port keep. -/
theorem WideClosed.clocks (hR : WideClosed R)
    (hport : ∀ c : Instr, c.isPortCommand = true → ∀ s t : State, Machine.exec c s = .next t → R s t) (s : State) (mdi : List Bool) :
    R s (s.clocks mdi) :=
  clocks_keep hR.refl hR.trans (fun _ _ _ _ _ _ => hR.outside _ _ rfl rfl rfl rfl rfl rfl) hport s mdi

/-- What every command keeps, given what the end of a soft reset, a power-on reset, a pop, WRITE_WINDOW and WRITE_AREA keep. -/
theorem WideClosed.exec (hR : WideClosed R) (hend : ∀ s : State, R s s.softResetCheck) (hpow : ∀ s : State, R s s.powerOn)
    (hpop : ∀ (s : State) (n : Nat), R s (s.popEvents n).state)
    (hwin : ∀ (s : State) (w : WIdx) (op : WindowOperands), R s (s.writeWindow w op).state)
    (harea : ∀ (s : State) (a : AIdx) (f n : Nat), R s (s.writeArea a f n).state) (c : Instr) (s t : State)
    (h : exec c s = .next t) : R s t := by
  have out : ∀ u : State, s.events = u.events → s.nextSeq = u.nextSeq → s.lost = u.lost → s.areas = u.areas → s.slots = u.slots →
      s.windows = u.windows → R s u := fun u h1 h2 h3 h4 h5 h6 => hR.outside _ _ h1.symm h2.symm h3.symm h4.symm h5.symm h6.symm
  have hport := hR.execPort hend hpop hwin harea
  have nxt : ∀ u : State, Host.Outcome.next u = (Host.Outcome.next t : Host.Outcome State Fault Refusal) → R s u → R s t :=
    fun u h hu => by injection h with h; rw [← h]; exact hu
  match c, h with
  | .upstreamRequest r, h => exact nxt _ h (hR.present s r)
  | .upstreamResponse t, h => exact nxt _ h (hR.respond s t)
  | .grant, h => exact nxt _ h (hR.grantOne s)
  | .downstreamIssue, h => exact nxt _ h (hR.issueOne s)
  | .downstreamResponse a b d, h => exact nxt _ h (hR.downResponse hend s a b d)
  | .reevaluationPass, h => exact nxt _ h (hR.unlessReset _ _ _ (hR.pass s))
  | .epochEvent d, h => exact nxt _ h (hR.unlessReset _ _ _ (hR.epochEvent s d))
  | .ageExpiry w, h => exact nxt _ h (hR.unlessReset _ _ _ (hR.ageExpiry s w))
  | .holdExpiry k, h => exact nxt _ h (hR.unlessReset _ _ _ (hR.holdExpiry s k))
  | .linkReset o, h =>
    exact nxt _ h (hR.unlessReset _ _ _ (by
      split
      · exact out _ rfl rfl rfl rfl rfl rfl
      · exact hR.linkReset s o))
  | .linkResetRelease, h => exact nxt _ h (out _ rfl rfl rfl rfl rfl rfl)
  | .powerOnReset, h => exact nxt _ h (hpow s)
  | .powerOnResetRelease e, h =>
    refine nxt _ h ?_
    split
    · exact out _ rfl rfl rfl rfl rfl rfl
    · exact hR.refl _
  | .transactionEndsEarly r, h =>
    refine nxt _ h ?_
    split
    · exact hR.refl _
    · unfold State.serialRun; split
      · exact hR.trans (hR.clocks hport s r.mdi) (hR.outside _ _ rfl rfl rfl rfl rfl rfl)
      · exact hR.clocks hport s r.mdi
  | .badCommand _, h => exact hport _ rfl _ _ h
  | .identify, h => exact hport _ rfl _ _ h
  | .readWindows _ _, h => exact hport _ rfl _ _ h
  | .writeWindow op, h => exact hport _ rfl _ _ h
  | .setOnline _, h => exact hport _ rfl _ _ h
  | .setOfflineFinish _ _, h => exact hport _ rfl _ _ h
  | .setOfflineDrop _ _, h => exact hport _ rfl _ _ h
  | .seal _, h => exact hport _ rfl _ _ h
  | .release _, h => exact hport _ rfl _ _ h
  | .discard _, h => exact hport _ rfl _ _ h
  | .clearFaultRetry _ _, h => exact hport _ rfl _ _ h
  | .clearFaultAbandon _ _, h => exact hport _ rfl _ _ h
  | .readGroups _, h => exact hport _ rfl _ _ h
  | .readAreas _ _, h => exact hport _ rfl _ _ h
  | .writeArea _ _ _, h => exact hport _ rfl _ _ h
  | .readSlots _ _, h => exact hport _ rfl _ _ h
  | .popEvents _, h => exact hport _ rfl _ _ h
  | .readStats _ _, h => exact hport _ rfl _ _ h
  | .softReset _ _, h => exact hport _ rfl _ _ h
  | .usTick, h => exact nxt _ h (hR.unlessReset _ _ _ (hR.tick s))
  | .transactionStart, h => exact nxt _ h (hR.unlessReset s s.startTransaction _ (out _ rfl rfl rfl rfl rfl rfl))

/-- A step on an empty queue keeps every such relation, and one that takes a command keeps it if the command does. -/
theorem WideClosed.step (hR : WideClosed R) (s t : State)
    (hc : ∀ (c : Instr) (rest : List Instr), s.pending = c :: rest → Machine.exec c { s with pending := rest } = .next t →
      R { s with pending := rest } t) (h : step s = .next t) : R s t := by
  unfold Machine.step at h
  split at h
  · next c rest hp => exact hR.trans (hR.outside _ { s with pending := rest } rfl rfl rfl rfl rfl rfl) (hc c rest hp h)
  · injection h with h
    rw [← h]
    exact hR.idle s

end Sys2Proof.Machine
end

