-- ==== Sys2Proof/Tests/Slice0.lean ====
section
/-! SUPPORT. The model's own tests: the ill-formed terms WellFormed refuses, one-step checks of the commands on small states, and for
every statement with hypotheses a state and operands that meet them, clause by clause. -/

namespace Sys2Proof.Machine.Tests

set_option Elab.async false
set_option synthInstance.maxSize 1024
set_option synthInstance.maxHeartbeats 400000

/-! ### Small states -/

/-- A request of source 4, tag 9. -/
def req (k : Kind) (l : Line) (lanes : Lanes) : UpRequest := ⟨k, 4, 9, l, lanes, LineData.zero⟩

/-- A group record in a state. -/
def grp (n : Byte) (owner : Source) (st : GState) (count : Nat) : Group := { Group.opening n owner none with state := st, entryCount := count }

/-- An entry of window 3. -/
def ent (k : Nat) (n : Byte) (l : Line) (q : Nat) (st : EState) : Entry := ⟨k, 3, n, l, q, LineData.zero, 0xF#32, st⟩

/-- Window 3: lines 100h to 10Fh, area 1, marker line 10Fh with lane group 1. -/
def win3 (st : WState) (t : Trigger) (p : Policy) (gs : List Group) : Window :=
  { Window.zero with
    state := st, base := 0x100, size := 16, area := 1, trigger := t
    marker := if t = .epoch then none else some ⟨15, 1, .early⟩
    policy := p, holdLimit := 100, ageLimit := 50, enables := 0xFF, nextGroup := 5, groups := gs }

/-- A state with window 3 and the slots of its area 1 (slots 8 and 9), the port in COMMAND. -/
def mk (x : Window) (es : List Entry) : State :=
  { (State.reset.setWin 3 x).setArea 1 ⟨8, 2, es.length⟩ with slots := es, frame := .command, timeCount := 7 }

/-- A transit record of a write on path GROUP. -/
def rec3 (src : Source) (tag : Tag) (l : Line) (wt : Wait) : Transit :=
  { acceptedRecord ⟨.write, src, tag, l, 0xF#32, LineData.zero⟩ with path := .group, window := some 3, wait := wt }

/-- A held write of window 3 in hold slot `k`. -/
def held3 (k : HoldNo) (src : Source) (l : Line) (why : HoldReason) (d : Tick) (p : Bool) : Held :=
  ⟨k, src, 1, 3, l, 0xF#32, LineData.zero, why, d, p⟩

/-- The next state. -/
def after (c : Instr) (s : State) : State :=
  match exec c s with
  | .next t => t
  | .fault _ => s
  | .refused _ => s

/-- MSEL_N falls and MCLK runs with these levels of MDI. -/
def clocked (mdi : List Bool) (s : State) : State := after (.transactionEndsEarly ⟨mdi, false⟩) (after .transactionStart s)

/-- The open group of source 4 with one entry at line 100h. -/
def openState (t : Trigger) : State := mk (win3 .online t .hold [grp 4 4 .opened 1]) [ent 8 4 0x100 0 .staged]

/-- The draining group with one entry, ISSUED on credit 0. -/
def drainState : State :=
  { mk (win3 .online .marker .hold [{ grp 4 4 .draining 1 with issued := 1, outstanding := 1, markerData := some (Vector.replicate 8 1) }])
      [ent 8 4 0x100 0 .issued] with
    credits := State.reset.credits.set 0 (.drain (.entry 3 4 0)) }

/-- The marking group, its marker issued on credit 0. -/
def markState : State :=
  { mk (win3 .online .marker .hold
      [{ grp 4 4 .marking 0 with outstanding := 1, markerData := some (Vector.replicate 8 1), pendingMarker := some (4, 9) }]) [] with
    credits := State.reset.credits.set 0 (.drain (.marker 3 4))
    transit := State.reset.transit.set 2 (some (rec3 4 9 0x10F .publication)) }

/-- The window frozen from ONLINE behind its faulted group. -/
def frozenState : State :=
  mk { win3 .frozen .marker .hold [{ grp 4 4 .faulted 1 with failedLine := some 0x100 }] with frozenFrom := some .online }
    [ent 8 4 0x100 0 .failed]

/-! ### WellFormed refuses -/

theorem test_wf_read_carries_no_byte : (Instr.upstreamRequest ⟨.read, 0, 0, 0, 1#32, Vector.replicate 32 1#8⟩).wf = false := by decide
theorem test_wf_write_byte_outside_lanes :
    (Instr.upstreamRequest ⟨.write, 0, 0, 0, 1#32, Vector.replicate 32 1#8⟩).wf = false := by decide
theorem test_wf_write_ok :
    (Instr.upstreamRequest ⟨.write, 0, 0, 0, 0xFFFFFFFF#32, Vector.replicate 32 1#8⟩).wf = true := by decide
theorem test_wf_epoch_without_level_or_window : (Instr.epochEvent ⟨[], []⟩).wf = false := by decide
theorem test_wf_line_without_edge_or_rise : (Instr.transactionEndsEarly ⟨[], false⟩).wf = false := by decide
theorem test_wf_link_order : (Instr.linkReset [0, 1, 0]).wf = false := by decide
theorem test_wf_soft_first_order : (Instr.softReset [2, 2] []).wf = false := by decide
theorem test_wf_soft_second_order : (Instr.softReset [] [2, 2]).wf = false := by decide
theorem test_wf_bad_command_is_known : (Instr.badCommand 0x5A).wf = false := by decide
theorem test_wf_finish_as_drop : (Instr.setOfflineFinish 3 1).wf = false := by decide
theorem test_wf_drop_as_finish : (Instr.setOfflineDrop 3 0).wf = false := by decide
theorem test_wf_retry_as_abandon : (Instr.clearFaultRetry 3 1).wf = false := by decide
theorem test_wf_abandon_as_retry : (Instr.clearFaultAbandon 3 0).wf = false := by decide

/-! ### One step of each command -/

theorem test_request_opens_group :
    (after (.upstreamRequest (req .write 0x100 0xF)) (mk (win3 .online .marker .hold []) [])).youngest 3 =
      some { grp 5 4 .opened 1 with ageDeadline := some 57 } := by decide +kernel
theorem test_request_forwarded : (after (.upstreamRequest (req .read 0x20 0xF)) (mk (win3 .online .marker .hold []) [])).fwd = [0] := by
  decide +kernel
theorem test_response_frees_record :
    (after (.upstreamResponse 0) (after (.upstreamRequest (req .write 0x100 0)) State.reset)).rcd 0 = none := by decide +kernel
theorem test_grant_issues_entry :
    (after .grant (mk (win3 .online .marker .hold [grp 4 4 .draining 1]) [ent 8 4 0x100 0 .staged])).credit 0 = .drain (.entry 3 4 0) := by
  decide +kernel
theorem test_downstream_issue :
    (after .downstreamIssue { State.reset with issue := [⟨.read, 1, 0, 5, 1, LineData.zero⟩] }).issue = [] := by decide +kernel
theorem test_entry_done_marks : ((after (.downstreamResponse 0 .done LineData.zero) drainState).oldest 3).map Group.state = some .marking := by
  decide +kernel
theorem test_entry_failed_freezes : ((after (.downstreamResponse 0 .failed LineData.zero) drainState).win 3).state = .frozen := by
  decide +kernel
theorem test_pass_stages_held_write :
    ((after .reevaluationPass { mk (win3 .online .marker .hold []) [] with holds := [held3 0 6 0x101 .conflict 90 true] }).slots.map
      Entry.line) = [0x101] := by decide +kernel
theorem test_epoch_counts : (after (.epochEvent ⟨[true], []⟩) (openState .epoch)).epochCounter = 1 := by decide +kernel
theorem test_epoch_seals_and_releases : ((after (.epochEvent ⟨[true], [3]⟩) (openState .epoch)).oldest 3).map Group.state = some .draining := by
  decide +kernel
/-- Two pulses give two events, in the order of their edges, and the level is low after them. -/
theorem test_epoch_pulses :
    let t := after (.epochEvent ⟨[true, false, true, true, false], []⟩) State.reset
    t.epochCounter = 2 ∧ t.due 3 = [1, 2] ∧ t.epochLevel = false := by decide +kernel
/-- EPOCH_IN high at the release of RESET_N is no edge, and the first edge is the first rise after the input has been seen low. -/
theorem test_epoch_high_at_release :
    let s := after (.powerOnResetRelease true) (after .powerOnReset State.reset)
    after (.epochEvent ⟨[true], []⟩) s = s ∧ (after (.epochEvent ⟨[false, true], []⟩) s).epochCounter = 1 := by decide +kernel
/-- The event is taken at window 3 and still on its way to window 2; a step on an empty queue delivers it at the lowest window. -/
theorem test_epoch_windows_apart :
    let t := after (.epochEvent ⟨[true], [3]⟩) (openState .epoch)
    t.due 3 = [] ∧ t.due 2 = [1] ∧ t.idle.due 0 = [] ∧ t.idle.due 2 = [1] := by decide +kernel
theorem test_age_breaks :
    ((after (.ageExpiry 3) (mk { win3 .online .marker .hold [{ grp 4 4 .opened 0 with ageDeadline := some 7 }] with
      ageAction := .break_ } [])).youngest 3).map Group.state = some .broken := by decide +kernel
theorem test_hold_expires :
    (after (.holdExpiry 2) { openState .marker with holds := [held3 2 6 0x101 .conflict 7 false] }).holds = [] := by decide +kernel
theorem test_hold_not_yet :
    (after (.holdExpiry 2) { openState .marker with holds := [held3 2 6 0x101 .conflict 8 false] }).holds.length = 1 := by decide +kernel
theorem test_link_reset_discards : ((after (.linkReset []) (openState .marker)).win 3).stats.discarded = 1 := by decide +kernel
theorem test_link_reset_release : (after .linkResetRelease { State.reset with linkAsserted := true }).upReady = true := by decide +kernel
theorem test_power_on_reset : (after .powerOnReset (openState .marker)).windows = State.reset.windows := by decide +kernel
theorem test_power_on_release : (after (.powerOnResetRelease true) (after .powerOnReset State.reset)).epochLevel = true := by decide +kernel
theorem test_transaction : (after .transactionStart State.reset).frame = .command := by decide +kernel
theorem test_early_end_loses_bytes :
    (after (.transactionEndsEarly ⟨List.replicate 15 false, true⟩) (after .identify (openState .marker))).masterRead = [0x00#8] := by
  decide +kernel
theorem test_frame_bits_take_the_command :
    let t := clocked ([0x12#8, 3#8].flatMap bitsOf) (mk (win3 .offline .marker .hold []) [])
    (t.win 3).state = .online ∧ t.frame = .result ∧ t.mdoByte = some 0x00#8 := by decide +kernel
theorem test_frame_code_only :
    let t := clocked (bitsOf 0x12#8 ++ [false]) (mk (win3 .offline .marker .hold []) [])
    (t.win 3).state = .offline ∧ t.frame = .operands ∧ t.received = [0x12#8] ∧ t.shift = [false] ∧ t.masterRead = [0xFF#8] ∧
      t.mdo = some true := by decide +kernel
/-- The frame of SET_ONLINE is cut after its code by a tick; the command's row completes it, and another command's row does not act. -/
theorem test_frame_cut_by_another_taking :
    let s := after .usTick (clocked (bitsOf 0x12#8) (mk (win3 .offline .marker .hold []) []))
    ((after (.setOnline 3) s).win 3).state = .online ∧ (after .identify s).frame = .operands := by decide +kernel
theorem test_frame_past_the_result :
    let t := clocked ([0x77#8, 0#8, 0#8].flatMap bitsOf) State.reset
    t.frame = .trailer ∧ t.masterRead = [0x80#8, 0xFF#8] ∧ t.mdoByte = some 0xFF#8 := by decide +kernel
theorem test_bad_command : (after (.badCommand 0x77) (openState .marker)).buffer = [0x80#8] := by decide +kernel
theorem test_identify : ((after .identify (openState .marker)).buffer.take 4) = [0x00#8, 0x16#8, 0x4C#8, 0x01#8] := by decide +kernel
theorem test_read_windows :
    ((after (.readWindows 3 1) (openState .epoch)).buffer) =
      [0x00#8, 1#8] ++ [3#8, 0x00#8, 0x20#8, 0#8, 0#8, 0#8, 16#8, 0#8, 0#8, 0#8, 1#8, 2#8, 0xFF#8, 0xFF#8, 0xFF#8, 0xFF#8] ++
        [0xFF#8, 0xFF#8, 1#8, 100#8, 0#8, 50#8, 0#8, 0#8, 0xFF#8, 0#8, 2#8, 5#8, 0xFF#8, 0xFF#8, 0#8, 0#8] := by decide +kernel
theorem test_read_areas : (after (.readAreas 1 1) (openState .marker)).buffer = [0#8, 1#8, 1#8, 8#8, 0#8, 2#8, 0#8, 1#8, 0#8] := by
  decide +kernel
theorem test_read_slots :
    (after (.readSlots 8 1) (openState .marker)).buffer =
      [0#8, 1#8] ++ [8#8, 0#8, 1#8, 3#8, 4#8, 0x00#8, 0x20#8, 0#8, 0#8, 0#8, 0#8, 0#8, 0#8, 0x0F#8, 0#8, 0#8, 0#8] := by decide +kernel
theorem test_read_groups :
    ((after (.readGroups 3) frozenState).buffer.take 27) =
      [0#8, 1#8] ++ [4#8, 4#8, 6#8, 8#8, 1#8, 0#8, 0#8, 0#8, 0#8, 0#8, 0#8, 0#8, 0#8, 0#8, 0#8, 0#8, 0#8, 0#8] ++
        [0x00#8, 0x20#8, 0#8, 0#8, 0#8, 0#8, 0#8] := by decide +kernel
theorem test_read_stats : (after (.readStats 3 1) (after .transactionStart (after (.linkReset []) (openState .marker)))).buffer =
    [0#8] ++ [0#8, 0#8, 0#8, 0#8] ++ [1#8, 0#8, 0#8, 0#8] ++ [0#8, 0#8, 0#8, 0#8] ++ [0#8, 0#8, 0#8, 0#8] := by decide +kernel
theorem test_pop_events :
    (after (.popEvents 1) (after .transactionStart (after (.linkReset []) (mk (win3 .online .marker .hold []) [])))).buffer =
      [0#8, 1#8] ++ [0#8, 8#8, 0#8, 0#8, 0#8, 0#8, 0#8, 0#8, 0#8, 0#8, 0#8, 0#8, 0#8] := by decide +kernel
theorem test_write_window_overlap :
    (after (.writeWindow ⟨4, 0x21E0, 4, 0, 0, 0, 0, 0, 0, 1, 0, 0, 0⟩) (openState .marker)).buffer = [0x83#8] := by decide +kernel
theorem test_write_window_configures :
    ((after (.writeWindow ⟨4, 0x2200, 4, 0, 0, 3, 2, 1, 0, 1, 0, 0, 0⟩) (openState .marker)).win 4).marker = some ⟨3, 2, .late⟩ := by
  decide +kernel
theorem test_write_area_overlap : (after (.writeArea 2 9 4) (openState .marker)).buffer = [0x83#8] := by decide +kernel
theorem test_write_area : (after (.writeArea 2 10 4) (openState .marker)).area 2 = ⟨10, 4, 0⟩ := by decide +kernel
theorem test_set_online : ((after (.setOnline 3) (mk (win3 .offline .marker .hold []) [])).win 3).state = .online := by decide +kernel
theorem test_finish : ((after (.setOfflineFinish 3 0) (openState .marker)).win 3).state = .quiescing := by decide +kernel
theorem test_drop : ((after (.setOfflineDrop 3 1) (openState .marker)).win 3).state = .offline := by decide +kernel
theorem test_seal : ((after (.seal 3) (openState .epoch)).youngest 3).map Group.state = some .sealed := by decide +kernel
theorem test_release :
    ((after (.release 3) (mk (win3 .online .epoch .hold [grp 4 4 .sealed 1]) [ent 8 4 0x100 0 .staged])).oldest 3).map Group.state =
      some .draining := by decide +kernel
theorem test_discard : (after (.discard 3) (openState .epoch)).slots = [] := by decide +kernel
theorem test_retry : ((after (.clearFaultRetry 3 0) frozenState).oldest 3).map Group.state = some .draining := by decide +kernel
theorem test_abandon : ((after (.clearFaultAbandon 3 1) frozenState).win 3).groups = [] := by decide +kernel
theorem test_soft_reset : ((after (.softReset [] []) (openState .marker)).events.map fun e => e.body.kind) = [.resetDone] := by
  decide +kernel
theorem test_tick : (after .usTick { State.reset with timeCount := 0xFFFFFFFF#32 }).timeCount = 0 := by decide +kernel
theorem test_tick_takes_the_expiry :
    let t := after .usTick (mk (win3 .online .markerEpoch .hold [{ grp 4 4 .opened 0 with ageDeadline := some 8 }]) [])
    t.timeCount = 8 ∧ (t.youngest 3).map Group.state = some .sealed ∧ (t.youngest 3).bind Group.ageDeadline = none := by decide +kernel

/-! ### A state and operands for the hypotheses of every statement -/

theorem test_witness_StepTakesFrontCommand : { State.reset with pending := [.usTick, .grant] }.pending = .usTick :: [.grant] := rfl
theorem test_witness_ChannelWaitsForReady :
    { State.reset with linkAsserted := true }.upReady = false ∧
      ({ State.reset with upWaiting := some (req .read 1 1) }.upReady = true ∧ State.reset.pending = [] ∧ ∀ w, State.reset.due w = []) ∧
      State.reset.upWaiting = none ∧ { State.reset with resetAsserted := true, upWaiting := some (req .read 1 1) }.upReady = false := by
  decide +kernel

/-- One state for the hypotheses of all the laws: an open group with an entry, an event, a forwarded read. -/
def lawState : State :=
  { openState .marker with
    pending := [.grant], events := [⟨0, evLinkReset, 0⟩], nextSeq := 1, fwd := [6]
    transit := State.reset.transit.set 6 (some { acceptedRecord (req .read 0x20 1) with path := .pass, wait := .credit }) }

theorem test_witness_StepKeepsEventLaw : lawState.eventLaw := by decide +kernel
theorem test_witness_StepKeepsTableLaw : lawState.tableLaw := by decide +kernel
theorem test_witness_StepKeepsConfigLaw : lawState.configLaw := by decide +kernel
theorem test_witness_StepKeepsSlotLaw : lawState.slotLaw := by decide +kernel
theorem test_witness_StepKeepsEntryLaw : lawState.entryLaw ∧ lawState.tableLaw ∧ lawState.slotLaw ∧ lawState.numbersFresh := by
  decide +kernel
theorem test_witness_StepKeepsPortLaws : lawState.forwardLaw ∧ lawState.creditLaw := by decide +kernel
theorem test_witness_StepKeepsDeadlineLaw :
    (let s := mk (win3 .online .marker .hold [{ grp 4 4 .opened 0 with ageDeadline := some 8 }]) []
     s.deadlineLaw ∧ s.tableLaw) ∧
      (let s := mk (win3 .online .marker .hold [{ grp 4 4 .opened 0 with ageDeadline := some 65542 }]) []
       s.deadlineLaw ∧ s.tableLaw) := by decide +kernel
theorem test_witness_laws_step : ∃ t, step lawState = .next t := ⟨_, rfl⟩

theorem test_witness_EmptyRequestIsRefused :
    State.reset.channelFor (req .write 1 0) ∧ State.reset.upReady = true ∧ (req .write 1 0).lanes = 0 := by decide +kernel
theorem test_witness_DuplicateIsRefused :
    let s := { State.reset with transit := State.reset.transit.set 31 (some (rec3 4 9 0x10F .hold)) }
    s.channelFor (req .read 1 1) ∧ s.upReady = true ∧ (req .read 1 1).lanes ≠ 0 ∧ s.rcd 31 = some (rec3 4 9 0x10F .hold) := by
  decide +kernel
/-- Line 110h lies just past window 3; line 10Fh is its last. -/
theorem test_witness_PassThroughJoinsPendingList :
    (let s := openState .marker
     s.classifies (req .read 0x110 1) ∧
       ∀ w : WIdx, (s.win w).contains 0x110 = true → (s.win w).state = .unused ∨ (s.win w).state = .offline) ∧
      (let s := mk (win3 .offline .marker .hold []) []
       s.classifies (req .write 0x10F 1) ∧ (s.win 3).contains 0x10F = true ∧
         ∀ w : WIdx, (s.win w).contains 0x10F = true → (s.win w).state = .unused ∨ (s.win w).state = .offline) := by decide +kernel
theorem test_witness_ResponseIsSentOnce :
    (let s := after (.upstreamRequest (req .write 1 0)) State.reset
     s.resetAsserted = false ∧ s.linkAsserted = false ∧ (s.rcd 0).map Transit.wait = some .answer ∧
       (s.rcd 0).bind Transit.result = some .refused) ∧
      State.reset.rcd 31 = none ∧ { State.reset with linkAsserted := true }.linkAsserted = true ∧
      ∃ x ∈ ({ State.reset with transit := State.reset.transit.set 31 (some (rec3 4 9 0x10F .hold)) } : State).rcd 31, x.wait ≠ .answer ∨
        x.result = none := by decide +kernel
theorem test_witness_MarkerWriteSeals :
    (win3 .online .epoch .hold []).marker = none ∧ (⟨15, 1, .early⟩ ∈ (win3 .online .marker .hold []).marker) ∧
      (0xFF00#32 = markerLanes 1 ∧ 0xFF#32 &&& markerLanes 1 = 0 ∧ 0x1FF00#32 &&& markerLanes 1 ≠ 0) ∧
      (∀ t ∈ [Trigger.marker, Trigger.markerEpoch],
        let s := openState t
        let g := grp 4 4 .opened 1
        s.arrives (req .write 0x10F 0xFF00) 3 ∧ (s.win 3).shape 0x10F 0xFF00 = .marker 1 .early ∧ s.youngest 3 = some g ∧
          g.state = .opened ∧ g.owner = 4 ∧ (s.win 3).trigger = t ∧ (s.win 3).groups = [g] ∧ s.hasOrphan 3 = false) ∧
      (let s := mk { win3 .online .markerEpoch .hold [grp 4 4 .opened 0] with marker := some ⟨15, 1, .late⟩ } []
       s.arrives (req .write 0x10F 0xFF00) 3 ∧ (s.win 3).shape 0x10F 0xFF00 = .marker 1 .late) := by decide +kernel
/-- The open group stands behind a draining one; and no group is open, in an empty queue and behind a draining group. -/
theorem test_witness_MarkerWriteSeals_queue :
    (let s := mk (win3 .online .marker .hold [grp 3 5 .draining 0, grp 4 4 .opened 0]) []
     s.arrives (req .write 0x10F 0xFF00) 3 ∧ s.youngest 3 = some (grp 4 4 .opened 0) ∧
       (∃ o ∈ s.oldest 3, o.state = .draining ∨ o.state = .marking) ∧ ∀ z ∈ (s.win 3).groups, z.state ≠ .sealed) ∧
      (∀ t ∈ [Trigger.marker, Trigger.markerEpoch],
        let s := mk (win3 .online t .hold []) []
        s.arrives (req .write 0x10F 0xFF00) 3 ∧ (s.win 3).shape 0x10F 0xFF00 = .marker 1 .early ∧ s.noOpenGroup 3 ∧
          (s.win 3).groups.length < 4 ∧ (s.win 3).trigger = t ∧ (s.win 3).groups = [] ∧ s.hasOrphan 3 = false) ∧
      (let s := mk (win3 .online .marker .hold [grp 2 5 .marking 0, grp 3 4 .released 0, grp 4 4 .released 0]) []
       s.arrives (req .write 0x10F 0xFF00) 3 ∧ s.noOpenGroup 3 ∧ (s.win 3).groups.length < 4 ∧
         (∃ o ∈ s.oldest 3, o.state = .draining ∨ o.state = .marking) ∧ ∀ z ∈ (s.win 3).groups, z.state ≠ .sealed) := by
  decide +kernel
theorem test_marker_write_alone_makes_a_marking_group :
    ((after (.upstreamRequest (req .write 0x10F 0xFF00)) (mk (win3 .online .marker .hold []) [])).win 3).groups.map Group.state =
      [.marking] := by decide +kernel

/-- Eight held writes of another window: every hold slot is in use. -/
def allHeld : List Held := (List.finRange 8).map fun k => held3 k 6 0x101 .conflict 90 false
/-- Four records, none open. -/
def fourGroups : List Group := [grp 1 4 .draining 0, grp 2 4 .sealed 0, grp 3 4 .sealed 0, grp 4 4 .sealed 0]

theorem test_witness_WriteRefusals_states :
    (let s := mk { win3 .quiescing .marker .hold [grp 4 4 .draining 0] with quiesceMode := some .drop } []
     s.classifies (req .write 0x100 1) ∧ s.inWindow 0x100 3 ∧ (s.win 3).state = .quiescing) ∧
      (frozenState.classifies (req .write 0x10F 1) ∧ frozenState.inWindow 0x10F 3 ∧ (frozenState.win 3).state = .frozen) := by
  decide +kernel
theorem test_witness_WriteRefusals_groups :
    (let s := openState .marker
     s.classifies (req .write 0x10F 0x1FF00) ∧ s.inWindow 0x10F 3 ∧ (s.win 3).shape 0x10F 0x1FF00 = .mix) ∧
      (let s := mk (win3 .online .marker .refuse [grp 4 5 .opened 0]) []
       s.classifies (req .write 0x100 1) ∧ s.inWindow 0x100 3 ∧ (s.win 3).shape 0x100 1 ≠ .mix ∧
         (∃ g ∈ s.youngest 3, (g.state = .opened ∨ g.state = .broken) ∧ g.owner ≠ 4) ∧ (s.win 3).policy = .refuse) ∧
      (let s := { mk (win3 .online .marker .hold [grp 4 5 .broken 0]) [] with holds := allHeld }
       s.classifies (req .write 0x100 1) ∧ (s.win 3).policy = .hold ∧ (∃ g ∈ s.youngest 3, g.state = .broken ∧ g.owner ≠ 4) ∧
         ∀ k : HoldNo, ∃ h ∈ s.holds, h.slot = k) ∧
      (let s := mk (win3 .online .marker .hold [grp 4 4 .broken 0]) []
       s.classifies (req .write 0x100 1) ∧ (s.win 3).shape 0x100 1 = .data ∧ ∃ g ∈ s.youngest 3, g.state = .broken ∧ g.owner = 4) ∧
      (let s := mk (win3 .online .marker .refuse fourGroups) []
       s.classifies (req .write 0x100 1) ∧ s.noOpenGroup 3 ∧ 4 ≤ (s.win 3).groups.length ∧ (s.win 3).policy = .refuse) ∧
      (let s := { mk (win3 .online .marker .hold fourGroups) [] with holds := allHeld }
       s.classifies (req .write 0x100 1) ∧ s.noOpenGroup 3 ∧ 4 ≤ (s.win 3).groups.length ∧ ∀ k : HoldNo, ∃ h ∈ s.holds, h.slot = k) := by
  decide +kernel

/-- Both slots of area 1 in use: slot 8 by a SEALED group, slot 9 by the open group of source 4. -/
def waitState : State :=
  mk (win3 .online .markerEpoch .refuse [grp 3 5 .sealed 1, grp 4 4 .opened 1]) [ent 8 3 0x100 0 .staged, ent 9 4 0x100 0 .staged]
/-- Both slots of area 1 in use by the open group of source 4. -/
def fullState : State :=
  mk (win3 .online .markerEpoch .refuse [grp 4 4 .opened 2]) [ent 8 4 0x100 0 .staged, ent 9 4 0x101 1 .staged]

theorem test_witness_WriteIsHeld :
    (let s := { mk (win3 .online .marker .hold [grp 4 5 .opened 0]) [] with holds := allHeld.take 7 }
     s.arrives (req .write 0x100 1) 3 ∧ (s.win 3).shape 0x100 1 ≠ .mix ∧ (∃ g ∈ s.youngest 3, g.state = .opened ∧ g.owner ≠ 4) ∧
       (∀ h ∈ s.holds, h.slot ≠ 7) ∧ ∀ j : HoldNo, j < 7 → ∃ h ∈ s.holds, h.slot = j) ∧
      (let s := mk (win3 .online .marker .hold fourGroups) []
       s.arrives (req .write 0x100 1) 3 ∧ s.noOpenGroup 3 ∧ 4 ≤ (s.win 3).groups.length) ∧
      (let s := waitState
       s.arrives (req .write 0x101 1) 3 ∧ (s.win 3).shape 0x101 1 = .data ∧
         (∃ g ∈ s.youngest 3, g.state = .opened ∧ g.owner = 4 ∧ ∀ e ∈ s.slots, e.ofGroup 3 g.number = true → e.line ≠ 0x101) ∧
         s.areaFull (s.win 3).area ∧
         ∃ e ∈ s.slots, (s.area (s.win 3).area).holds e.slot = true ∧
           ∃ y ∈ (s.win e.window).groups, y.number = e.group ∧ y.state.sealedOrLater = true) := by
  decide +kernel
theorem test_witness_WriteTakesASlot :
    (let s := mk (win3 .online .marker .hold [grp 2 4 .draining 0, grp 3 4 .sealed 0, grp 4 4 .sealed 1]) [ent 8 4 0x100 0 .staged]
     s.arrives (req .write 0x10E 1) 3 ∧ (s.win 3).shape 0x10E 1 = .data ∧ s.noOpenGroup 3 ∧ (s.win 3).groups.length < 4 ∧
       s.lowestFree (s.win 3).area 9 ∧ ∀ e ∈ s.slots, e.ofGroup 3 (s.win 3).nextGroup = false) ∧
      (let s := openState .marker
       s.arrives (req .write 0x101 1) 3 ∧ (s.win 3).shape 0x101 1 = .data ∧ s.youngest 3 = some (grp 4 4 .opened 1) ∧
         (∀ e ∈ s.slots, e.ofGroup 3 4 = true → e.line ≠ 0x101) ∧ s.lowestFree (s.win 3).area 9) := by decide +kernel
theorem test_witness_OwnerWriteCoalesces :
    let s := fullState
    let e := ent 9 4 0x101 1 .staged
    s.arrives (req .write 0x101 1) 3 ∧ (s.win 3).shape 0x101 1 = .data ∧ s.youngest 3 = some (grp 4 4 .opened 2) ∧ s.slotLaw ∧
      e ∈ s.slots ∧ e.ofGroup 3 4 = true ∧ e.line = 0x101 := by decide +kernel
theorem test_witness_AreaFullBreaksTheGroup :
    let s := fullState
    s.arrives (req .write 0x102 1) 3 ∧ (s.win 3).shape 0x102 1 = .data ∧ s.youngest 3 = some (grp 4 4 .opened 2) ∧
      (∀ e ∈ s.slots, e.ofGroup 3 4 = true → e.line ≠ 0x102) ∧ s.areaFull (s.win 3).area ∧
      ∀ e ∈ s.slots, (s.area (s.win 3).area).holds e.slot = true → ∀ y ∈ (s.win e.window).groups, y.number = e.group →
        y.state = .opened := by decide +kernel
theorem test_witness_AreaFullBreaksTheGroup_hold_full :
    let s := { waitState with holds := allHeld }
    s.arrives (req .write 0x101 1) 3 ∧ (s.win 3).shape 0x101 1 = .data ∧ s.youngest 3 = some (grp 4 4 .opened 1) ∧
      (∀ e ∈ s.slots, e.ofGroup 3 4 = true → e.line ≠ 0x101) ∧ s.areaFull (s.win 3).area ∧
      (∃ e ∈ s.slots, (s.area (s.win 3).area).holds e.slot = true ∧
        ∃ y ∈ (s.win e.window).groups, y.number = e.group ∧ y.state.sealedOrLater = true) ∧
      ∀ k : HoldNo, ∃ h ∈ s.holds, h.slot = k := by decide +kernel
theorem test_witness_MarkerWriteEndsBrokenGroup :
    let s := mk (win3 .online .marker .hold [grp 4 4 .broken 0]) []
    s.arrives (req .write 0x10F 0xFF00) 3 ∧ (s.win 3).shape 0x10F 0xFF00 = .marker 1 .early ∧
      s.youngest 3 = some (grp 4 4 .broken 0) ∧ (∀ e ∈ s.slots, e.ofGroup 3 4 = false) ∧
      grp 4 4 .broken 0 ∉ (s.win 3).groups.dropLast := by decide +kernel
theorem test_witness_BreakOfOpenGroup :
    (openState .marker).youngest 3 = some (grp 4 4 .opened 1) ∧
      ∀ g ∈ (mk (win3 .online .marker .hold [grp 4 4 .broken 0]) []).youngest 3, g.state ≠ .opened := by decide +kernel
theorem test_witness_EventPosting :
    ({ State.reset with events := List.replicate 31 ⟨0, evLinkReset, 0⟩ }.events.length < 32) ∧
      32 ≤ { State.reset with events := List.replicate 32 ⟨0, evLinkReset, 0⟩ }.events.length ∧
      ((openState .marker).win 3).enables.getLsbD (evWindowOffline 3).kind.code = true ∧
      (State.reset.win 3).enables.getLsbD (evWindowOffline 3).kind.code = false := by decide +kernel
/-- Lane 0 of line 100h: held by the draining group 3 and by the open group 4 of source 4, which hides it from source 4. -/
theorem test_witness_SnapshotLanes :
    let m : MarkerData := Vector.replicate 8 7#8
    let s := mk (win3 .online .marker .hold [{ grp 3 5 .draining 1 with markerData := some m }, grp 4 4 .opened 1])
      [ent 8 3 0x100 0 .issued, ent 9 4 0x100 0 .staged]
    (s.snapshot 3 5 0x100 1)[0] = some 0 ∧ (s.snapshot 3 5 0x100 1)[31] = none ∧ (grp 4 4 .opened 1).visible 5 = false ∧
      (s.entryAt? 3 3 0x100).map Entry.valid = some 0xF ∧ (s.snapshot 3 4 0x101 1)[0] = none ∧
      (s.snapshot 3 5 0x10F 0xFF00)[8] = some 7 ∧ (s.snapshot 3 5 0x10F 0xFF00)[15] = some 7 ∧
      ((openState .marker).snapshot 3 5 0x10F 0xFF00)[8] = none := by decide +kernel
theorem test_witness_MergeRead :
    (let s := openState .marker
     s.classifies (req .read 0x100 0xF) ∧ s.inWindow 0x100 3 ∧ (s.win 3).state.live = true ∧
       ∀ i : Fin 32, (0xF#32).getLsbD i.val = true → ((s.snapshot 3 4 0x100 0xF)[i]).isSome = true) ∧
      (frozenState.classifies (req .read 0x100 0x1F) ∧ frozenState.inWindow 0x100 3 ∧ (frozenState.win 3).state.live = true ∧
        ∃ i : Fin 32, (0x1F#32).getLsbD i.val = true ∧ (frozenState.snapshot 3 4 0x100 0x1F)[i] = none) := by decide +kernel

/-- A forwarded read waits, every credit but number 31 is held. -/
def oneCredit : State :=
  { openState .marker with
    fwd := [6], credits := (Vector.replicate 32 (Credit.forwarder none)).set 31 .free
    transit := State.reset.transit.set 6 (some { acceptedRecord (req .read 0x20 1) with path := .pass, wait := .credit }) }

theorem test_witness_GrantToForwarder :
    (∀ c, ({ oneCredit with credits := Vector.replicate 32 (.forwarder none) } : State).credit c ≠ .free) ∧
      (State.reset.fwd = [] ∧ ∀ w, State.reset.offers w = none) ∧
      (oneCredit.resetAsserted = false ∧ oneCredit.lowestCredit 31 ∧ oneCredit.fwd = 6 :: [] ∧ (oneCredit.rcd 6).isSome = true ∧
        ∀ w, oneCredit.offers w = none) ∧
      (let s := { drainState with credits := (Vector.replicate 32 (Credit.drain (.orphan 2))).set 31 .free, fwd := [6] }
       8 ≤ s.drainHeld ∧ s.lowestCredit 31) := by decide +kernel
theorem test_witness_GrantToDrainEngine :
    (let g : Group := { grp 4 4 .draining 2 with outstanding := 3, issued := 3 }
     let s := { mk (win3 .online .marker .hold [g]) [ent 8 4 0x100 0 .failed, ent 9 4 0x101 1 .staged] with
       credits := (Vector.replicate 32 (Credit.forwarder none)).set 31 .free, fwd := [6] }
     let e := ent 8 4 0x100 0 .failed
     s.resetAsserted = false ∧ s.lowestCredit 31 ∧ s.lastGrant = .forwarder ∧ s.drainHeld < 8 ∧ s.turnChoice = some 3 ∧
       s.oldest 3 = some g ∧ e ∈ s.slots ∧ g.state = .draining ∧ g.outstanding < 4 ∧ slotsWf s.slots = true ∧
       e.ofGroup 3 g.number = true ∧ e.state ≠ .issued ∧
       ∀ y ∈ s.slots, y.ofGroup 3 g.number = true → y.state ≠ .issued → y ≠ e → e.sequence < y.sequence) ∧
      (let g : Group := { grp 4 4 .marking 0 with markerData := some (Vector.replicate 8 1) }
       let s := mk (win3 .online .marker .hold [g]) []
       s.lowestCredit 0 ∧ s.fwd = [] ∧ s.turnChoice = some 3 ∧ s.oldest 3 = some g ∧ ⟨15, 1, .early⟩ ∈ (s.win 3).marker ∧
         Vector.replicate 8 1 ∈ g.markerData ∧ g.outstanding = 0) := by decide +kernel
theorem test_witness_IssueTakesTheHead :
    (let q : DownRequest := ⟨.read, 1, 31, 5, 1, LineData.zero⟩
     { State.reset with issue := [q] }.issue = q :: [] ∧ State.reset.resetAsserted = false) ∧ State.reset.issue = [] ∧
      { State.reset with resetAsserted := true }.resetAsserted = true := by decide +kernel
theorem test_witness_ForwarderAnswers :
    let p : Snapshot := (Vector.replicate 32 none).set 0 (some 1)
    let a : Transit := { acceptedRecord (req .read 0x20 1) with path := .pass, wait := .downstream }
    let b : Transit := { acceptedRecord (req .write 0x20 1) with path := .pass, wait := .downstream }
    let c : Transit := { acceptedRecord (req .read 0x100 3) with path := .merge, window := some 3, snapshot := some p, wait := .downstream }
    ∀ x ∈ [a, b, c],
      let s := { State.reset with
        transit := State.reset.transit.set 6 (some x), credits := State.reset.credits.set 31 (.forwarder (some 6)) }
      s.resetAsserted = false ∧ s.credit 31 = .forwarder (some 6) ∧ s.rcd 6 = some x := by decide +kernel
theorem test_witness_EntryAcknowledged :
    (let s := drainState
     let e := ent 8 4 0x100 0 .issued
     s.resetAsserted = false ∧ s.credit 0 = .drain (.entry 3 4 e.sequence) ∧
       (∃ g ∈ s.oldest 3, g.number = 4 ∧ g.state = .draining ∧ g.entryCount = 1 ∧ g.markerData.isSome = true) ∧
       (∀ y ∈ s.slots, y.ofGroup 3 4 = true → y.sequence = e.sequence → y = e) ∧ slotsWf s.slots = true ∧ e ∈ s.slots ∧
       e.ofGroup 3 4 = true) ∧
      (let g : Group := { grp 4 4 .draining 2 with issued := 1, outstanding := 1 }
       let s := { mk (win3 .online .marker .hold [g]) [ent 8 4 0x100 0 .issued, ent 9 4 0x101 1 .staged] with
         credits := State.reset.credits.set 0 (.drain (.entry 3 4 0)) }
       s.oldest 3 = some g ∧ 2 ≤ g.entryCount ∧ s.credit 0 = .drain (.entry 3 4 0) ∧
         ∀ y ∈ s.slots, y.ofGroup 3 4 = true → y.sequence = 0 → y = ent 8 4 0x100 0 .issued) := by decide +kernel
theorem test_witness_MarkerAcknowledgedPublishes_marker :
    (let s := markState
     s.resetAsserted = false ∧ s.softReset = false ∧ s.credit 0 = .drain (.marker 3 4) ∧ (s.oldest 3).map Group.number = some 4 ∧
       (s.oldest 3).map Group.state = some .marking ∧ (s.oldest 3).map Group.pendingMarker = some (some (4, 9)) ∧
       s.groupRcd? 4 9 = some 2 ∧ (s.win 3).marker = some ⟨15, 1, .early⟩ ∧ (s.win 3).state = .online ∧ (s.win 3).groups.tail = []) ∧
      (let s := { markState with windows := (markState.setWin 3 { markState.win 3 with state := .quiescing }).windows }
       (s.win 3).state = .quiescing ∧ (s.win 3).groups.tail = [] ∧ s.credit 0 = .drain (.marker 3 4)) := by decide +kernel
/-- The last entry of a group without marker data is on credit 0; `next` waits behind the group. -/
def lastEntryState (next : List Group) : State :=
  { mk (win3 .online .marker .hold ({ grp 4 4 .draining 1 with issued := 1, outstanding := 1 } :: next)) [ent 8 4 0x100 0 .issued] with
    credits := State.reset.credits.set 0 (.drain (.entry 3 4 0)) }
theorem test_witness_MarkerAcknowledgedPublishes_entry :
    ∀ next ∈ [[], [grp 5 4 .opened 0], [grp 5 4 .released 1]],
      let s := lastEntryState next
      let e := ent 8 4 0x100 0 .issued
      s.resetAsserted = false ∧ s.softReset = false ∧ s.credit 0 = .drain (.entry 3 4 e.sequence) ∧
        s.oldest 3 = some { grp 4 4 .draining 1 with issued := 1, outstanding := 1 } ∧ (s.win 3).groups.tail = next ∧
        (s.win 3).state = .online ∧ (∀ y ∈ s.slots, y.ofGroup 3 4 = true → y.sequence = e.sequence → y = e) ∧
        slotsWf s.slots = true ∧ e ∈ s.slots ∧ e.ofGroup 3 4 = true ∧ s.hasOrphan 3 = false := by decide +kernel
theorem test_publication_takes_the_next_group :
    let t := after (.downstreamResponse 0 .done LineData.zero) (lastEntryState [grp 5 4 .released 1])
    (t.win 3).groups = [grp 5 4 .draining 1] ∧ (t.win 3).stats.published = 1 := by decide +kernel
/-- A group drains from ONLINE, an open group behind it; a write of source 6 is held. -/
def failState : State :=
  { mk (win3 .online .marker .hold
      [{ grp 4 4 .draining 1 with issued := 1, outstanding := 1 }, { grp 5 5 .opened 1 with ageDeadline := some 57 }])
      [ent 8 4 0x100 0 .issued, ent 9 5 0x101 0 .staged] with
    credits := State.reset.credits.set 0 (.drain (.entry 3 4 0)), holds := [held3 7 6 0x101 .conflict 90 false]
    transit := State.reset.transit.set 2 (some (rec3 6 1 0x101 .hold)) }
theorem test_witness_DrainFailureFreezes_entry :
    (let s := failState
     let e := ent 8 4 0x100 0 .issued
     s.resetAsserted = false ∧ s.softReset = false ∧ s.credit 0 = .drain (.entry 3 4 e.sequence) ∧
       (s.oldest 3).map Group.state = some .draining ∧ (s.oldest 3).map Group.number = some 4 ∧ s.tableLaw ∧ (s.win 3).state = .online ∧
       (∀ y ∈ s.slots, y.ofGroup 3 4 = true → y.sequence = e.sequence → y = e) ∧ slotsWf s.slots = true ∧ e ∈ s.slots ∧
       e.ofGroup 3 4 = true) ∧
      (let s := { mk { win3 .quiescing .marker .hold [{ grp 4 4 .draining 1 with issued := 1, outstanding := 1 }] with
           quiesceMode := some .finish } [ent 8 4 0x100 0 .issued] with credits := State.reset.credits.set 0 (.drain (.entry 3 4 0)) }
       s.tableLaw ∧ (s.win 3).state = .quiescing ∧ s.credit 0 = .drain (.entry 3 4 0)) := by decide +kernel
/-- A transit table with one record holds no two with the same source and tag. -/
theorem oneRecordEach_of_single {s : State} {u : RecNo} (h : ∀ v : RecNo, v ≠ u → s.rcd v = none) : s.oneRecordEach := by
  have only : ∀ v : RecNo, ∀ z ∈ s.rcd v, v = u := fun v z hz => by
    by_contra hv
    rw [h v hv] at hz
    cases hz
  intro t v x hx y hy
  intros
  rw [only t x hx, only v y hy]
theorem test_witness_DrainFailureFreezes_one_record : failState.oneRecordEach :=
  oneRecordEach_of_single (u := 2) (by decide +kernel)
theorem test_freeze_breaks_and_answers :
    let t := after (.downstreamResponse 0 .failed LineData.zero) failState
    (t.win 3).groups.map Group.state = [.faulted, .broken] ∧ (t.win 3).stats = ⟨0, 0, 1, 1⟩ ∧ t.holds = [] ∧
      (t.rcd 2).bind Transit.result = some .refused ∧
      t.events.map (fun e => e.body.kind) = [.groupFaulted, .writeRefused, .groupBroken] := by decide +kernel
theorem test_witness_DrainFailureFreezes_marker :
    let s := markState
    s.resetAsserted = false ∧ s.softReset = false ∧ s.credit 0 = .drain (.marker 3 4) ∧ (s.oldest 3).map Group.state = some .marking ∧
      (s.oldest 3).map Group.number = some 4 ∧ s.tableLaw ∧ (s.win 3).marker = some ⟨15, 1, .early⟩ := by decide +kernel
theorem test_witness_DrainFailureFreezes_faulted :
    let s := { frozenState with
      slots := [ent 8 4 0x100 0 .failed, ent 9 4 0x101 1 .issued], credits := State.reset.credits.set 0 (.drain (.entry 3 4 1)) }
    let e := ent 9 4 0x101 1 .issued
    s.resetAsserted = false ∧ s.credit 0 = .drain (.entry 3 4 e.sequence) ∧ (s.oldest 3).map Group.state = some .faulted ∧
      (s.oldest 3).map Group.number = some 4 ∧ (∀ y ∈ s.slots, y.ofGroup 3 4 = true → y.sequence = e.sequence → y = e) ∧
      slotsWf s.slots = true ∧ e ∈ s.slots ∧ e.ofGroup 3 4 = true := by decide +kernel
/-- A soft reset in progress: the marker of window 3's last group is on credit 0, and window 2 still drains a group. -/
def softFailState : State :=
  { mk { win3 .quiescing .marker .hold [{ grp 4 4 .marking 0 with outstanding := 1, markerData := some (Vector.replicate 8 1) }] with
      quiesceMode := some .drop } [] with
    softReset := true, credits := State.reset.credits.set 0 (.drain (.marker 3 4)) }.setWin 2
    { win3 .quiescing .marker .hold [grp 4 4 .draining 0] with base := 0x200, quiesceMode := some .drop }
theorem test_witness_DrainFailureFreezes_soft :
    let s := softFailState
    s.resetAsserted = false ∧ s.softReset = true ∧ s.tableLaw ∧ (s.win 3).state = .quiescing ∧
      (s.win 3).groups = [{ grp 4 4 .marking 0 with outstanding := 1, markerData := some (Vector.replicate 8 1) }] ∧
      (s.win 3).marker = some ⟨15, 1, .early⟩ ∧ s.credit 0 = .drain (.marker 3 4) ∧ (∃ v : WIdx, v ≠ 3 ∧ (s.win v).groups ≠ []) ∧
      (∀ e ∈ s.slots, e.ofGroup 3 4 = false) ∧ ∀ d : CreditNo, d ≠ 0 → s.credit d = .free := by decide +kernel
/-- The last orphaned write of window 3 is on credit 0; its oldest group waits RELEASED. -/
def orphanState : State :=
  { mk (win3 .online .marker .hold [grp 4 4 .released 1]) [ent 8 4 0x100 0 .staged] with
    credits := State.reset.credits.set 0 (.drain (.orphan 3)) }
theorem test_witness_ResponsesWithoutClient :
    State.reset.credit 31 = .free ∧ { State.reset with resetAsserted := true }.resetAsserted = true ∧ oneCredit.credit 30 = .forwarder none ∧
      (let s := { orphanState with credits := orphanState.credits.set 31 (.drain (.orphan 3)) }
       s.credit 0 = .drain (.orphan 3) ∧ ∃ d : CreditNo, d ≠ 0 ∧ s.credit d = .drain (.orphan 3)) ∧
      (let s := orphanState
       s.resetAsserted = false ∧ s.softReset = false ∧ s.credit 0 = .drain (.orphan 3) ∧ s.oldest 3 = some (grp 4 4 .released 1) ∧
         (∀ d : CreditNo, d ≠ 0 → s.credit d ≠ .drain (.orphan 3)) ∧ (s.win 3).state ≠ .frozen) := by decide +kernel
theorem test_orphan_response_lets_the_group_be_taken :
    let t := after (.downstreamResponse 0 .failed LineData.zero) orphanState
    t.oldest 3 = some (grp 4 4 .draining 1) ∧ t.credit 0 = .free := by decide +kernel
/-- A write of source `src` is held in slot 7, pending. -/
def passState (x : Window) (es : List Entry) (src : Source) (l : Line) (lanes : Lanes) : State :=
  { mk x es with
    holds := [{ held3 7 src l .queueFull 90 true with lanes := lanes }]
    transit := State.reset.transit.set 2 (some (rec3 src 1 l .hold)) }
theorem test_witness_PassTakesPendingWrites :
    (State.reset.resetAsserted = false ∧ ∀ h ∈ State.reset.holds, h.pending = false) ∧
      (∀ p ∈ [Policy.hold, Policy.refuse],
        let s := passState (win3 .online .marker p [grp 4 4 .opened 1]) [ent 8 4 0x100 0 .staged] 6 0x101 1
        (s.holds.map Held.slot).Nodup ∧ (s.win 3).state = .online ∧ (s.win 3).policy = p ∧ (s.win 3).shape 0x101 1 ≠ .mix ∧
          s.youngest 3 = some (grp 4 4 .opened 1) ∧ s.groupRcd? 6 1 = some 2) ∧
      (∀ p ∈ [Policy.hold, Policy.refuse],
        let s := passState (win3 .online .marker p fourGroups) [] 6 0x101 1
        (s.win 3).policy = p ∧ s.noOpenGroup 3 ∧ 4 ≤ (s.win 3).groups.length ∧ s.groupRcd? 6 1 = some 2) ∧
      (let s := passState (win3 .online .marker .hold [grp 4 4 .broken 0]) [] 4 0x101 1
       s.youngest 3 = some (grp 4 4 .broken 0) ∧ (s.win 3).shape 0x101 1 = .data ∧ s.groupRcd? 4 1 = some 2) := by decide +kernel
/-- The four exits of an owner's data write and of a write that opens a group: AREA_WAIT, AREA_FULL, a slot in the open group, a new
group. -/
theorem test_witness_PassTakesPendingWrites_staging :
    (let s := passState (waitState.win 3) waitState.slots 4 0x101 1
     s.youngest 3 = some (grp 4 4 .opened 1) ∧ (s.win 3).shape 0x101 1 = .data ∧ s.areaFull (s.win 3).area ∧
       (∀ e ∈ s.slots, e.ofGroup 3 4 = true → e.line ≠ 0x101) ∧
       ∃ e ∈ s.slots, (s.area (s.win 3).area).holds e.slot = true ∧
         ∃ y ∈ (s.win e.window).groups, y.number = e.group ∧ y.state.sealedOrLater = true) ∧
      (let s := passState (fullState.win 3) fullState.slots 4 0x102 1
       s.youngest 3 = some (grp 4 4 .opened 2) ∧ s.areaFull (s.win 3).area ∧ s.groupRcd? 4 1 = some 2 ∧
         (∀ e ∈ s.slots, e.ofGroup 3 4 = true → e.line ≠ 0x102) ∧
         ¬∃ e ∈ s.slots, (s.area (s.win 3).area).holds e.slot = true ∧
           ∃ y ∈ (s.win e.window).groups, y.number = e.group ∧ y.state.sealedOrLater = true) ∧
      (let s := passState ((openState .marker).win 3) (openState .marker).slots 4 0x101 1
       s.youngest 3 = some (grp 4 4 .opened 1) ∧ s.lowestFree (s.win 3).area 9 ∧ s.groupRcd? 4 1 = some 2) ∧
      (let s := passState (win3 .online .marker .hold []) [] 6 0x101 1
       s.noOpenGroup 3 ∧ (s.win 3).groups.length < 4 ∧ s.lowestFree (s.win 3).area 8 ∧
         (∀ e ∈ s.slots, e.ofGroup 3 (s.win 3).nextGroup = false) ∧ s.groupRcd? 6 1 = some 2) := by decide +kernel
theorem test_witness_PassTakesPendingWrites_marker :
    ∀ c ∈ [Completion.early, Completion.late],
      let s := passState { win3 .online .markerEpoch .hold [grp 4 4 .opened 0] with marker := some ⟨15, 1, c⟩ } [] 4 0x10F 0xFF00
      (s.win 3).shape 0x10F 0xFF00 = .marker 1 c ∧ s.youngest 3 = some (grp 4 4 .opened 0) ∧ (s.win 3).trigger = .markerEpoch ∧
        s.groupRcd? 4 1 = some 2 := by decide +kernel
theorem test_witness_HoldExpires :
    ∀ why ∈ [HoldReason.conflict, HoldReason.queueFull, HoldReason.areaWait],
      let h := held3 7 4 0x101 why 7 false
      let s := { fullState with holds := [h], transit := State.reset.transit.set 2 (some (rec3 4 1 0x101 .hold)) }
      s.resetAsserted = false ∧ (s.holds.map Held.slot).Nodup ∧ h ∈ s.holds ∧ h.deadline = s.timeCount ∧
        s.groupRcd? h.source h.tag = some 2 ∧ ∃ g ∈ s.youngest h.window, g.state = .opened ∧ g.owner = h.source := by decide +kernel
theorem test_witness_AgeExpires :
    ∀ t ∈ [Trigger.marker, Trigger.markerEpoch, Trigger.epoch], ∀ a ∈ [AgeAction.seal, AgeAction.break_], ∀ d ∈ [7, 8],
      let g : Group := { grp 4 4 .opened 0 with ageDeadline := some (BitVec.ofNat 32 d) }
      let s := mk { win3 .online t .hold [g] with ageAction := a } []
      s.resetAsserted = false ∧ s.youngest 3 = some g ∧ g.state = .opened ∧
        (g.ageDeadline = some s.timeCount ∨ g.ageDeadline = some (s.timeCount + 1)) ∧ (s.win 3).ageAction = a ∧ (s.win 3).trigger = t ∧
        ∀ v : WIdx, v ≠ 3 → s.youngest v = none := by decide +kernel
/-- The nearest deadline, one tick ahead, and the farthest, 2^31 ticks ahead of tick 7. -/
theorem test_witness_TimersFollowTheTimeCount :
    (held3 7 6 0x101 .conflict 8 false).deadline = (openState .marker).timeCount + BitVec.ofNat 32 1 ∧
      (0x80000007#32 = (openState .marker).timeCount + BitVec.ofNat 32 (2 ^ 31)) ∧ (∀ g ∈ State.reset.youngest 3, g.state = .opened) := by
  decide +kernel
/-- Before and after the release of RESET_N, low and high; an edge and a sample that is none; each form of a group. -/
theorem test_witness_EpochEvent :
    exec (.powerOnResetRelease true) { State.reset with resetAsserted := true } = .next { State.reset with epochLevel := true } ∧
    exec (.epochEvent ⟨[true, false], []⟩) State.reset = .next (after (.epochEvent ⟨[true, false], []⟩) State.reset) ∧
    exec (.epochEvent ⟨[true], [3]⟩) State.reset = .next (after (.epochEvent ⟨[true], [3]⟩) State.reset) ∧
    (State.reset.resetAsserted = false ∧ (State.reset.win 0).state.live = false ∧ ∀ w, State.reset.due w = []) ∧
      ((List.finRange 16).Nodup ∧ ∀ w : WIdx, w ∈ List.finRange 16) ∧
      (let s := { State.reset with epochDue := State.reset.epochDue.set 3 [1] }
       s.pending = [] ∧ s.due 3 ≠ [] ∧ ∀ v : WIdx, v < 3 → s.due v = []) ∧
      ∀ p ∈ [(Trigger.markerEpoch, grp 4 4 .sealed 1), (Trigger.epoch, grp 4 4 .opened 1), (Trigger.epoch, grp 4 4 .broken 0)],
        let es := if p.2.entryCount = 0 then [] else [ent 8 4 0x100 0 .staged]
        let s := { mk (win3 .online p.1 .hold [p.2]) es with epochDue := State.reset.epochDue.set 3 [1, 2] }
        s.resetAsserted = false ∧ s.due 3 = 1 :: [2] ∧ (s.win 3).trigger = p.1 ∧ (s.win 3).groups = [p.2] ∧
          (p.2.state ≠ .broken → p.2.entryCount ≠ 0) ∧ s.hasOrphan 3 = false ∧ (s.win 3).state = .online ∧
          (p.2.state = .broken → (∀ e ∈ s.slots, e.ofGroup 3 4 = false) ∧ p.2.pendingMarker = none) := ⟨rfl, rfl, rfl, by decide +kernel⟩
theorem test_witness_LinkResetDropsRequests :
    (openState .marker).resetAsserted = false ∧ (openState .marker).linkAsserted = false ∧ (openState .marker).tableLaw := by
  decide +kernel
theorem test_witness_ResetReleases : { State.reset with resetAsserted := true }.resetAsserted = true ∧ State.reset.resetAsserted = false := by
  decide +kernel
theorem test_witness_TransactionFraming :
    State.reset.frame = .idle ∧ (openState .marker).frame ≠ .idle ∧ State.reset.resetAsserted = false ∧
      (let s := clocked (bitsOf 0x12#8 ++ List.replicate 6 true) State.reset
       s.frame = .operands ∧ s.shift.length + [true].length < 8) ∧
      (let s := after .identify (openState .marker)
       s.frame = .result ∧ s.shift = [] ∧ s.buffer ≠ [] ∧ (List.replicate 143 false).length < 8 * s.buffer.length ∧
         8 * s.buffer.length ≤ (List.replicate 144 false).length) ∧
      (let s := clocked ([0x77#8, 0#8].flatMap bitsOf) State.reset
       s.frame = .trailer ∧ s.shift = [] ∧ s.buffer = []) := by decide +kernel
/-- Every row of the port but SOFT_RESET with orders and the two unlisted spellings is spelled by its frame. -/
theorem test_witness_FrameSpellsCommand :
    (∀ c ∈ ([.badCommand 0, .identify, .writeWindow ⟨255, 0xFFFFFFFFFF, 0xFFFFFFFF, 1, 2, 3, 4, 5, 6, 7, 8, 9, 0xFFFF⟩,
        .setOfflineFinish 3 0, .setOfflineDrop 3 1, .setOfflineFinish 3 2, .clearFaultAbandon 255 1, .writeArea 1 0x1234 0xFFFF,
        .readSlots 0x0102 3, .softReset [] []] : List Instr), c.isSpelled = true ∧ commandOf (frameOf c) = some c) ∧
      State.reset.resetAsserted = false := by decide +kernel
theorem test_witness_PortChecks :
    (Instr.identify).isPortCommand = true ∧ (State.reset.frame ≠ .command ∧ State.reset.frame ≠ .operands) ∧ (openState .marker).portTakes ∧
      (let s := clocked (bitsOf 0x12#8) State.reset
       s.frame = .operands ∧ ¬s.receivedBits <+: (frameOf .identify).flatMap bitsOf) ∧
      ((Instr.seal 3).isPermitted = false ∧ { openState .marker with softReset := true }.softReset = true) ∧
      ((16 : Byte) ∈ (Instr.readGroups 16).windowIndex? ∧ (Instr.readGroups 16).isPermitted = true) ∧
      ((16 : Byte) ∈ (Instr.seal 16).windowIndex? ∧ (openState .marker).softReset = false) ∧
      (0xFF : Byte).toNat ∉ [0x01, 0x10, 0x11, 0x12, 0x13, 0x20, 0x21, 0x22, 0x23, 0x24, 0x30, 0x31, 0x32, 0x40, 0x41, 0x5A] := by
  decide +kernel
theorem test_witness_IdentifyResult : (openState .marker).portTakes := by decide +kernel
theorem test_witness_TableReads : (openState .marker).portTakes := by decide +kernel
theorem test_witness_GroupAndStatReads : (openState .marker).portTakes ∧ (2 : Byte) ≠ 0 ∧ (2 : Byte) ≠ 1 := by decide +kernel
theorem test_witness_PopEvents :
    (openState .marker).portTakes ∧ 8 < (9 : Byte).toNat ∧ 1 ≤ (1 : Byte).toNat ∧ (8 : Byte).toNat ≤ 8 := by decide +kernel
theorem test_witness_WriteWindow :
    (let s := openState .marker
     s.portTakes ∧ s.softReset = false ∧ (s.win 15).state.live = false ∧ BitVec.ofNat 8 (15 : WIdx).val = 15#8 ∧ (s.win 3).state.live = true) ∧
      (after (.writeWindow ⟨15, 0xFFC0000000, 0x2000000, 7, 2, 0, 9, 9, 1, 1, 0, 1, 0xFF⟩) (openState .marker)).buffer = [0x00#8] ∧
      (after (.writeWindow ⟨15, 0xFFC0000020, 0x2000000, 7, 2, 0, 9, 9, 1, 1, 0, 1, 0xFF⟩) (openState .marker)).buffer = [0x82#8] ∧
      (after (.writeWindow ⟨15, 0x2000, 1, 7, 2, 0, 9, 9, 1, 1, 0, 1, 0xFF⟩) (openState .marker)).buffer = [0x83#8] ∧
      (after (.writeWindow ⟨15, 1, 0, 9, 9, 9, 9, 9, 9, 0, 0, 9, 0x100⟩) (openState .marker)).buffer = [0x00#8] := by decide +kernel
theorem test_witness_WriteWindow_live :
    (after (.writeWindow ⟨3, 0x2000, 16, 1, 0, 15, 1, 0, 1, 100, 50, 0, 0x7F⟩) (openState .marker)).buffer = [0x00#8] ∧
      (after (.writeWindow ⟨3, 0x2000, 16, 1, 0, 15, 1, 0, 1, 100, 50, 0, 0x100⟩) (openState .marker)).buffer = [0x82#8] ∧
      (after (.writeWindow ⟨3, 0x2000, 16, 1, 0, 15, 1, 1, 1, 100, 50, 0, 0x100⟩) (openState .marker)).buffer = [0x84#8] := by
  decide +kernel
theorem test_witness_WriteAreaChecks :
    let s := openState .marker
    let buf := fun c => (after c s).buffer
    s.portTakes ∧ s.softReset = false ∧ 8 ≤ (8 : Byte).toNat ∧ buf (.writeArea 8 0 1) = [0x81#8] ∧ buf (.writeArea 7 512 0) = [0x82#8] ∧
      buf (.writeArea 7 511 2) = [0x82#8] ∧ buf (.writeArea 1 8 2) = [0x84#8] ∧ buf (.writeArea 7 9 1) = [0x83#8] ∧
      buf (.writeArea 7 9 0) = [0x00#8] ∧ buf (.writeArea 7 511 1) = [0x00#8] := by decide +kernel
theorem test_witness_SetOnline :
    (let s := mk (win3 .offline .marker .hold []) []
     s.portTakes ∧ s.softReset = false ∧ (s.win 3).state = .offline ∧ 1 ≤ (s.area (s.win 3).area).count) ∧
      (let s := mk { win3 .offline .marker .hold [] with area := 0 } []
       (s.win 3).state = .offline ∧ (s.area (s.win 3).area).count = 0 ∧ (s.win 2).state ≠ .offline) := by decide +kernel
theorem test_witness_WindowCommandsTurnedAway :
    let q := mk { win3 .quiescing .marker .hold [grp 4 4 .draining 0] with quiesceMode := some .drop } []
    let f := frozenState
    let o := mk (win3 .online .marker .hold [grp 4 4 .draining 0]) []
    (q.portTakes ∧ q.softReset = false ∧ (q.win 3).state = .quiescing ∧ (q.win 2).state = .unused ∧ (q.win 3).state ≠ .frozen) ∧
      (f.portTakes ∧ f.softReset = false ∧ (f.win 3).state = .frozen) ∧ ((2 : Byte) ≠ 0 ∧ (2 : Byte) ≠ 1) ∧
      ((∀ g ∈ o.youngest 3, g.state ≠ .opened) ∧ (∀ g ∈ (o.win 3).groups, g.state ≠ .sealed) ∧
        ∀ g ∈ (o.win 3).groups, g.state ≠ .opened ∧ g.state ≠ .broken ∧ g.state ≠ .sealed) := by decide +kernel
theorem test_witness_QuiesceFinish :
    (let s := { openState .marker with holds := [held3 7 6 0x101 .conflict 90 false] }
     s.portTakes ∧ s.softReset = false ∧ (s.win 3).state = .online ∧ s.tableLaw) ∧
      (let s := openState .marker
       let g := grp 4 4 .opened 1
       (∀ h ∈ s.holds, h.window ≠ 3) ∧ (s.win 3).groups = [g] ∧ g.state = .opened ∧ g.entryCount ≠ 0 ∧ s.hasOrphan 3 = false) ∧
      (let s := mk (win3 .online .marker .hold []) []
       s.portTakes ∧ (s.win 3).state = .online ∧ (∀ h ∈ s.holds, h.window ≠ 3) ∧ (s.win 3).groups = []) := by decide +kernel
theorem test_witness_QuiesceDrop :
    let s := openState .marker
    s.portTakes ∧ s.softReset = false ∧ (s.win 3).state = .online := by decide +kernel
theorem test_witness_SealCommand :
    ∀ t ∈ [Trigger.marker, Trigger.markerEpoch, Trigger.epoch],
      let s := openState t
      s.portTakes ∧ s.softReset = false ∧ (s.win 3).state = .online ∧ s.youngest 3 = some (grp 4 4 .opened 1) ∧ (s.win 3).trigger = t := by
  decide +kernel
theorem test_witness_ReleaseCommand :
    (let s := mk { win3 .frozen .epoch .hold [grp 3 4 .faulted 0, grp 4 4 .sealed 0] with frozenFrom := some .online } []
     s.portTakes ∧ s.softReset = false ∧ (s.win 3).state = .frozen ∧ (∃ y ∈ (s.win 3).groups, y.state = .sealed) ∧
       s.oldest 3 = some (grp 3 4 .faulted 0)) ∧
      (let s := mk (win3 .online .epoch .hold [grp 4 4 .sealed 1]) [ent 8 4 0x100 0 .staged]
       s.portTakes ∧ (∃ y ∈ (s.win 3).groups, y.state = .sealed) ∧ s.oldest 3 = some (grp 4 4 .sealed 1) ∧ s.hasOrphan 3 = false ∧
         (s.win 3).state = .online) := by decide +kernel
theorem test_witness_DiscardCommand :
    let s := openState .marker
    s.portTakes ∧ s.softReset = false ∧ (s.win 3).state = .online ∧ ((s.win 3).groups.filter fun g => !g.state.releasedOrLater) ≠ [] := by
  decide +kernel
theorem test_witness_ClearFault :
    (let s := frozenState
     let g : Group := { grp 4 4 .faulted 1 with failedLine := some 0x100 }
     s.portTakes ∧ s.softReset = false ∧ (s.win 3).state = .frozen ∧ (s.win 3).frozenFrom = some .online ∧ s.oldest 3 = some g ∧
       g.state = .faulted ∧ (s.win 3).groups = [g]) ∧
      (let s := mk { win3 .frozen .marker .hold [grp 4 4 .faulted 0] with frozenFrom := some .quiescing } []
       s.portTakes ∧ (s.win 3).state = .frozen ∧ (s.win 3).frozenFrom = some .quiescing ∧ s.oldest 3 = some (grp 4 4 .faulted 0)) := by
  decide +kernel
/-- The last group of a soft reset, its marker on credit 0. -/
def softState : State :=
  { mk { win3 .quiescing .marker .hold [{ grp 4 4 .marking 0 with outstanding := 1, markerData := some (Vector.replicate 8 1) }] with
      quiesceMode := some .drop } [] with
    softReset := true, credits := State.reset.credits.set 0 (.drain (.marker 3 4)) }
theorem test_witness_SoftReset :
    (let s := { State.reset with frame := .command }
     s.portTakes ∧ s.softReset = false ∧ (∀ w : WIdx, (s.win w).state ≠ .online ∧ (s.win w).state ≠ .frozen) ∧
       ∀ w : WIdx, (s.win w).state ≠ .quiescing ∧ (s.win w).groups = []) ∧
      (let s := { softState with softReset := false }
       s.portTakes ∧ (∀ w : WIdx, (s.win w).state ≠ .online ∧ (s.win w).state ≠ .frozen) ∧ ∃ w : WIdx, (s.win w).groups ≠ []) ∧
      (let s := softState
       s.resetAsserted = false ∧ s.credit 0 = .drain (.marker 3 4) ∧ (s.win 3).groups.map Group.state = [.marking] ∧
         (s.win 3).marker ≠ none ∧ (s.win 3).state = .quiescing ∧ (∀ v : WIdx, v ≠ 3 → (s.win v).groups = []) ∧ s.holds = []) := by
  decide +kernel
theorem test_soft_reset_ends_at_the_last_publication :
    let t := after (.downstreamResponse 0 .done LineData.zero) softState
    t.softReset = false ∧ t.events = [⟨0, evResetDone, 0⟩] ∧ t.windows = State.reset.windows ∧ t.nextSeq = 1 ∧ t.lost = 0 := by
  decide +kernel
/-- An ONLINE window with a draining and an open group, and a window frozen from ONLINE whose next group is RELEASED. -/
def softStart : State :=
  { (openState .marker).setWin 3 (win3 .online .marker .hold [grp 3 4 .draining 0, grp 4 4 .opened 1]) with
    holds := [held3 7 6 0x101 .conflict 90 false], transit := State.reset.transit.set 2 (some (rec3 6 1 0x101 .hold)) }.setWin 2
    { win3 .frozen .marker .hold [grp 4 4 .faulted 0, grp 5 4 .released 1] with base := 0x200, frozenFrom := some .online }
theorem test_witness_SoftReset_live :
    let s := softStart
    s.portTakes ∧ s.softReset = false ∧ s.tableLaw ∧ (s.win 2).state = .frozen ∧ (s.win 3).state = .online ∧
      (∀ w : WIdx, (s.win w).state = .frozen → ∀ y ∈ (s.win w).groups.tail.head?, y.state = .released → y.entryCount ≠ 0) := by
  decide +kernel
theorem test_witness_SoftReset_one_record : softStart.oneRecordEach := oneRecordEach_of_single (u := 2) (by decide +kernel)
theorem test_soft_reset_steps :
    let t := after (.softReset [] []) softStart
    (t.win 2).groups = [grp 5 4 .draining 1] ∧ (t.win 2).state = .quiescing ∧ (t.win 3).groups = [grp 3 4 .draining 0] ∧
      (t.win 3).state = .quiescing ∧ t.holds = [] ∧ (t.rcd 2).bind Transit.result = some .refused ∧ t.softReset = true := by decide +kernel
end Sys2Proof.Machine.Tests
end

section
/-! SUPPORT. The law of the forwarder's pending list and of the credits (R7, R13, R15, R107): one rule for each way in which a taking
writes the transit table, the pending list or the credits. A rule names the state after the taking by what its records read as, so that
it serves every taking that leaves them so. -/

namespace Sys2Proof.Machine

/-! ### How a record waits -/

theorem State.waits_iff (s : State) (t : RecNo) (wt : Wait) : s.waits t wt = true ↔ ∃ r, s.rcd t = some r ∧ r.wait = wt := by
  unfold State.waits
  cases s.rcd t <;> simp

theorem State.waits_of_rcd {s : State} {t : RecNo} {r : Transit} (h : s.rcd t = some r) (wt : Wait) :
    s.waits t wt = true ↔ r.wait = wt := by
  simp [State.waits_iff, h]

theorem State.waits_congr {s t : State} {u : RecNo} (h : t.rcd u = s.rcd u) (wt : Wait) : t.waits u wt = s.waits u wt := by
  unfold State.waits
  rw [h]

/-- The record, if it is not free, waits neither for a credit nor for memory: the forwarder has no part in it (R7). -/
def offPort (o : Option Transit) : Prop := ∀ r ∈ o, r.wait ≠ .credit ∧ r.wait ≠ .downstream

theorem offPort_none : offPort none := by simp [offPort]

theorem offPort_some (r : Transit) : offPort (some r) ↔ r.wait ≠ .credit ∧ r.wait ≠ .downstream := by simp [offPort]

/-- An answered record has no part in the forwarder (R7 ANSWER). -/
theorem offPort_answer {r : Transit} (h : r.wait = .answer) : offPort (some r) := by simp [offPort_some, h]

theorem State.not_waits_credit {s : State} {t : RecNo} (h : offPort (s.rcd t)) : ¬s.waits t .credit = true := by
  rw [State.waits_iff]
  rintro ⟨r, hr, hw⟩
  exact (h r hr).1 hw

theorem State.not_waits_downstream {s : State} {t : RecNo} (h : offPort (s.rcd t)) : ¬s.waits t .downstream = true := by
  rw [State.waits_iff]
  rintro ⟨r, hr, hw⟩
  exact (h r hr).2 hw

/-! ### The forwarder's law -/

/-- With no record, nothing pending and no credit for a client the law holds. -/
theorem forwardLaw_of_empty {s : State} (ht : ∀ u, s.rcd u = none) (hf : s.fwd = [])
    (hc : ∀ c u, s.credit c ≠ .forwarder (some u)) : s.forwardLaw := by
  refine ⟨by simp [hf], fun u => ?_, fun c u h => absurd h (hc c u), fun c _ u h => absurd h (hc c u), ?_⟩
  · simp [hf, State.waits, ht]
  · simp [ht]

variable {s s' : State} {t : RecNo}

/-- Credits change, but none comes to serve a client that it did not serve before: a credit freed, a client lost, the credits of the
drain engine (R15, R17, R18, R122). -/
theorem forwardLaw_credits (hr : s'.transit = s.transit) (hf : s'.fwd = s.fwd)
    (hc : ∀ c u, s'.credit c = .forwarder (some u) → s.credit c = .forwarder (some u)) (h : s.forwardLaw) : s'.forwardLaw := by
  obtain ⟨h1, h2, h3, h4, h5⟩ := h
  have hr : ∀ u, s'.rcd u = s.rcd u := fun u => by rw [State.rcd, hr]; rfl
  refine ⟨by rwa [hf], fun u => ?_, fun c u hu => ?_, fun c d u hu hd => ?_, fun u => ?_⟩
  · rw [hf, State.waits_congr (hr u)]; exact h2 u
  · rw [State.waits_congr (hr u)]; exact h3 c u (hc c u hu)
  · exact h4 c d u (hc c u hu) (hc d u hd)
  · rw [hr]; exact h5 u

/-- The forwarder's law reads the transit table, the pending list and the credits alone. -/
theorem forwardLaw_congr (hr : s'.transit = s.transit) (hf : s'.fwd = s.fwd) (hc : s'.credits = s.credits) (h : s.forwardLaw) :
    s'.forwardLaw :=
  forwardLaw_credits hr hf (fun c u hu => by rw [State.credit, hc] at hu; exact hu) h

/-- A record that is not pending comes to have no part in the forwarder, and no credit serves it afterwards. -/
theorem forwardLaw_leave (hr : ∀ u, u ≠ t → s'.rcd u = s.rcd u) (ht : offPort (s'.rcd t)) (hf : s'.fwd = s.fwd) (htf : t ∉ s.fwd)
    (hc : ∀ c u, s'.credit c = .forwarder (some u) → u ≠ t ∧ s.credit c = .forwarder (some u)) (h : s.forwardLaw) :
    s'.forwardLaw := by
  obtain ⟨h1, h2, h3, h4, h5⟩ := h
  refine ⟨by rwa [hf], fun u => ?_, fun c u hu => ?_, fun c d u hu hd => h4 c d u (hc c u hu).2 (hc d u hd).2, fun u r hur hup => ?_⟩
  · rw [hf]
    by_cases hu : u = t
    · subst hu
      exact iff_of_false htf (State.not_waits_credit ht)
    · rw [State.waits_congr (hr u hu)]
      exact h2 u
  · obtain ⟨hut, hu⟩ := hc c u hu
    rw [State.waits_congr (hr u hut)]
    exact h3 c u hu
  · by_cases hu : u = t
    · subst hu
      exact ht r hur
    · rw [hr u hu] at hur
      exact h5 u r hur hup

/-- A record without part in the forwarder takes a value without part in it: an acceptance that is answered, a response sent, a write
on path GROUP. -/
theorem forwardLaw_setRcd {x : Option Transit} (ho : offPort (s.rcd t)) (hx : offPort x) (h : s.forwardLaw) :
    (s.setRcd t x).forwardLaw := by
  obtain ⟨-, h2, h3, -⟩ := id h
  refine forwardLaw_leave (fun u hu => s.rcd_setRcd_other x hu) (by rwa [State.rcd_setRcd_same]) rfl
    (fun hm => State.not_waits_credit ho ((h2 t).1 hm)) (fun c u hu => ⟨?_, hu⟩) h
  rintro rfl
  exact State.not_waits_downstream ho (h3 c u hu)

/-- A record on path GROUP has no part in the forwarder, and a change of it that keeps the path and its wait keeps the law. -/
theorem forwardLaw_modRcd_group {f : Transit → Transit} (hp : ∀ r ∈ s.rcd t, r.path = .group)
    (hf : ∀ r, (f r).path = r.path ∧ (f r).wait ≠ .credit ∧ (f r).wait ≠ .downstream) (h : s.forwardLaw) :
    (s.modRcd t f).forwardLaw := by
  obtain ⟨-, -, -, -, hg⟩ := id h
  refine forwardLaw_setRcd (fun r hr => hg t r hr (hp r hr)) (fun r hr => ?_) h
  obtain ⟨q, -, rfl⟩ := Option.map_eq_some_iff.1 hr
  exact (hf q).2

/-- A forwarded request is answered: its credit is freed, and it waits for memory no more (R14, R17). -/
theorem forwardLaw_answer {c : CreditNo} {x : Option Transit} (hcl : s.credit c = .forwarder (some t)) (hx : offPort x)
    (h : s.forwardLaw) : ((s.setCredit c .free).setRcd t x).forwardLaw := by
  obtain ⟨-, h2, h3, h4, -⟩ := id h
  refine forwardLaw_leave (s := s) (fun u hu => State.rcd_setRcd_other _ x hu) (by rwa [State.rcd_setRcd_same]) rfl (fun hm => ?_)
    (fun d u hd => ?_) h
  · obtain ⟨r, hr, hw⟩ := (s.waits_iff t .credit).1 ((h2 t).1 hm)
    have := (State.waits_of_rcd hr _).1 (h3 c t hcl)
    simp [hw] at this
  · rw [State.credit_setRcd, State.credit_setCredit] at hd
    split at hd
    · cases hd
    · next hdc => exact ⟨fun e => hdc (h4 d c t (e ▸ hd) hcl), hd⟩

/-- A record without part in the forwarder comes to wait for a credit and joins the tail of the pending list (R13, R133). -/
theorem forwardLaw_join {x : Transit} (ho : offPort (s.rcd t)) (hr : ∀ u, s'.rcd u = if u = t then some x else s.rcd u)
    (hf : s'.fwd = s.fwd ++ [t]) (hc : s'.credits = s.credits) (hw : x.wait = .credit) (hp : x.path ≠ .group) (h : s.forwardLaw) :
    s'.forwardLaw := by
  obtain ⟨h1, h2, h3, h4, h5⟩ := h
  have hc : ∀ c, s'.credit c = s.credit c := fun c => by rw [State.credit, hc]; rfl
  have hro : ∀ u, u ≠ t → s'.rcd u = s.rcd u := fun u hu => by rw [hr, if_neg hu]
  have htf : t ∉ s.fwd := fun hm => State.not_waits_credit ho ((h2 t).1 hm)
  refine ⟨?_, fun u => ?_, fun c u hu => ?_, by simpa only [hc] using h4, fun u r hur hup => ?_⟩
  · rw [hf, List.nodup_append]
    exact ⟨h1, by simp, fun a ha b hb => by rintro rfl; exact htf (List.mem_singleton.1 hb ▸ ha)⟩
  · rw [hf, List.mem_append, List.mem_singleton]
    by_cases hu : u = t
    · rw [State.waits_of_rcd ((hr u).trans (if_pos hu))]
      exact iff_of_true (.inr hu) hw
    · rw [State.waits_congr (hro u hu), or_iff_left hu]
      exact h2 u
  · rw [hc] at hu
    have hut : u ≠ t := fun e => State.not_waits_downstream ho (e ▸ h3 c u hu)
    rw [State.waits_congr (hro u hut)]
    exact h3 c u hu
  · rw [hr] at hur
    split at hur
    · cases hur
      exact absurd hup hp
    · exact h5 u r hur hup

/-- A credit is given for the head of the pending list, which then waits for memory (R13, R14, R15). -/
theorem forwardLaw_grant {c : CreditNo} {x y : Transit} (hs : s.fwd = t :: s'.fwd) (hx : s.rcd t = some x)
    (hr : ∀ u, s'.rcd u = if u = t then some y else s.rcd u) (hw : y.wait = .downstream) (hp : y.path = x.path)
    (hc : ∀ d, s'.credit d = if d = c then .forwarder (some t) else s.credit d) (h : s.forwardLaw) : s'.forwardLaw := by
  obtain ⟨h1, h2, h3, h4, h5⟩ := h
  have hro : ∀ u, u ≠ t → s'.rcd u = s.rcd u := fun u hu => by rw [hr, if_neg hu]
  rw [hs, List.nodup_cons] at h1
  have hxw : x.wait = .credit := (State.waits_of_rcd hx _).1 ((h2 t).1 (by simp [hs]))
  have hdown : s'.waits t .downstream = true := (State.waits_of_rcd ((hr t).trans (if_pos rfl)) _).2 hw
  -- no other credit serves the head: its client would wait for memory, and the head waits for a credit
  have hone : ∀ d, s.credit d ≠ .forwarder (some t) := fun d hd => by
    have := (State.waits_of_rcd hx _).1 (h3 d t hd)
    simp [hxw] at this
  have hold : ∀ d u, s'.credit d = .forwarder (some u) → (d = c ∧ u = t) ∨ (u ≠ t ∧ s.credit d = .forwarder (some u)) := by
    intro d u hd
    rw [hc] at hd
    split at hd
    · next hdc => exact .inl ⟨hdc, by cases hd; rfl⟩
    · exact .inr ⟨fun e => hone d (e ▸ hd), hd⟩
  refine ⟨h1.2, fun u => ?_, fun d u hd => ?_, fun d e u hd he => ?_, fun u r hur hup => ?_⟩
  · by_cases hu : u = t
    · rw [State.waits_of_rcd ((hr u).trans (if_pos hu)), hw, hu]
      exact iff_of_false h1.1 (by decide)
    · rw [State.waits_congr (hro u hu), ← h2 u, hs, List.mem_cons, or_iff_right hu]
  · rcases hold d u hd with ⟨-, rfl⟩ | ⟨hut, hd⟩
    · exact hdown
    · rw [State.waits_congr (hro u hut)]
      exact h3 d u hd
  · rcases hold d u hd with ⟨rfl, rfl⟩ | ⟨hut, hd⟩ <;> rcases hold e u he with ⟨rfl, hut'⟩ | ⟨hut', he⟩
    · rfl
    · exact absurd rfl hut'
    · exact absurd hut' hut
    · exact h4 d e u hd he
  · rw [hr] at hur
    split at hur
    · cases hur
      exact absurd hxw (h5 t x hx (hp ▸ hup)).1
    · exact h5 u r hur hup

/-! ### The credits of the drain engine -/

/-- The number of credits HELD by DRAIN after one credit is written, its old and its new value counted out. -/
theorem drainHeld_setCredit (s : State) (c : CreditNo) (x : Credit) :
    (s.setCredit c x).drainHeld + (if (s.credit c).isDrain then 1 else 0) = s.drainHeld + (if x.isDrain then 1 else 0) := by
  have hlen : c.val < s.credits.toList.length := by simp
  have hget : s.credits.toList[c.val] = s.credit c := by simp [State.credit]
  have hle : (if (s.credit c).isDrain = true then 1 else 0) ≤ s.credits.toList.countP Credit.isDrain := by
    split
    · next h => exact List.countP_pos_iff.2 ⟨s.credit c, by rw [← hget]; exact List.getElem_mem hlen, h⟩
    · exact Nat.zero_le _
  rw [State.drainHeld, State.setCredit, Vector.toList_set, List.countP_set hlen, hget, State.drainHeld]
  omega

/-- The credits HELD by DRAIN, counted by number. -/
theorem drainHeld_eq_countP (s : State) : s.drainHeld = (List.finRange 32).countP fun c => (s.credit c).isDrain := by
  have : s.credits.toList = (List.finRange 32).map s.credit := by
    apply List.ext_getElem <;> simp [State.credit]
  rw [State.drainHeld, this, List.countP_map]
  rfl

/-- Where no credit becomes HELD by DRAIN the drain engine's limit is kept (R107). -/
theorem creditLaw_of_isDrain (h : ∀ c, (s'.credit c).isDrain = true → (s.credit c).isDrain = true) (hs : s.creditLaw) :
    s'.creditLaw := by
  refine le_trans ?_ hs
  rw [drainHeld_eq_countP, drainHeld_eq_countP]
  exact List.countP_mono_left fun c _ => h c

theorem creditLaw_congr (hc : s'.credits = s.credits) (hs : s.creditLaw) : s'.creditLaw := by
  rwa [State.creditLaw, State.drainHeld, hc]

/-- A credit that goes to no write of the drain engine keeps its limit. -/
theorem creditLaw_setCredit {c : CreditNo} {x : Credit} (hx : x.isDrain = false) (hs : s.creditLaw) : (s.setCredit c x).creditLaw :=
  creditLaw_of_isDrain (fun d => by rw [State.credit_setCredit]; split <;> simp [hx]) hs

/-- A credit given to the drain engine is the eighth at the most where fewer than 8 were HELD by DRAIN (R102, R107). -/
theorem creditLaw_grant {c : CreditNo} {x : Credit} (hs : s.drainHeld < Config.drainCredits) : (s.setCredit c x).creditLaw := by
  have := drainHeld_setCredit s c x
  unfold State.creditLaw
  split at this <;> split at this <;> omega

end Sys2Proof.Machine
end

section
/-! SUPPORT. The takings that leave the transit table, the pending list and the credits to the operations on write groups: the drain
engine's answers, the timers, the epoch unit and the commands of the port. Laws/Closed.lean has them for relations that any change of
the ports keeps; here they are for relations that the ports' own records decide. -/

namespace Sys2Proof.Machine

/-- A relation that the operations on write groups keep (`Closed`), kept besides by any change outside the transit table, the pending
list and the credits, and by the writes of an abandoned group becoming orphans (R121). -/
structure ChannelClosed (R : State → State → Prop) : Prop extends Closed R where
  elsewhere : ∀ s t : State, t.transit = s.transit → t.fwd = s.fwd → t.credits = s.credits → R s t
  orphaned : ∀ (s : State) (w : WIdx) (n : Byte), R s (s.mapCredits fun c => c.orphaned w n)

variable {R : State → State → Prop}

theorem ChannelClosed.modWin (hR : ChannelClosed R) (s : State) (w : WIdx) (f : Window → Window) : R s (s.modWin w f) :=
  hR.elsewhere _ _ rfl rfl rfl

/-! ### The drain engine -/

theorem ChannelClosed.abandonFaulted (hR : ChannelClosed R) (s : State) (w : WIdx) : R s (s.abandonFaulted w) := by
  unfold State.abandonFaulted
  split
  · split
    · next g _ _ =>
      exact hR.trans (hR.freeGroupSlots s w g.number) (hR.trans (hR.orphaned _ _ _) (hR.trans (hR.answerPending _ g .failed)
        (hR.trans (hR.post _ _ _) (hR.trans (hR.bumpDiscarded _ w) (hR.trans (hR.modWin _ w _) (hR.trans (hR.windowTrigger _ w)
          (hR.drainTake _ w)))))))
    · exact hR.refl _
  · exact hR.refl _

theorem ChannelClosed.drainFailure (hR : ChannelClosed R) (s : State) (w : WIdx) (l : Line) : R s (s.drainFailure w l) := by
  unfold State.drainFailure
  split
  · exact hR.refl _
  · have hfreeze := fun g f => hR.trans (hR.setOldest s w g) (hR.freezeWindow _ w f l)
    dsimp only
    split
    · exact hR.trans (hfreeze _ _) (hR.trans (hR.modWin _ _ _) (hR.abandonFaulted _ _))
    · exact hfreeze _ _

theorem ChannelClosed.entryAnswered (hR : ChannelClosed R) (s : State) (w : WIdx) (g : Group) (e : Entry) (r : Result) :
    R s (s.entryAnswered w g e r) := by
  have hdone : R s (s.entryDone w g e) := by
    refine hR.trans (hR.elsewhere s (s.freeAcked w g e) rfl rfl rfl) (hR.trans ?_ (hR.areaTrigger _ _))
    unfold State.afterAck
    split
    · exact hR.refl _
    · split
      · split
        · exact hR.setOldest _ w _
        · exact hR.publish _ w _
      · exact hR.refl _
  have hfailed : R s (s.entryFailed w g e) := by
    have hfail : R s (s.failEntry w g e) := hR.elsewhere _ _ rfl rfl rfl
    unfold State.entryFailed
    dsimp only
    split
    · exact hR.trans hfail (hR.drainFailure _ _ _)
    · exact hfail
  cases r with
  | done => exact hdone
  | refused => exact hfailed
  | failed => exact hfailed

theorem ChannelClosed.markerAnswered (hR : ChannelClosed R) (s : State) (w : WIdx) (g : Group) (m : MarkerConfig) (r : Result) :
    R s (s.markerAnswered w g m r) := by
  refine hR.trans (hR.setOldest s w { g with outstanding := 0 }) ?_
  cases r with
  | done => exact hR.publish _ _ _
  | refused => exact hR.drainFailure _ _ _
  | failed => exact hR.drainFailure _ _ _

theorem ChannelClosed.drainResponse (hR : ChannelClosed R) (s : State) (cl : DrainClient) (r : Result) : R s (s.drainResponse cl r) := by
  cases cl with
  | entry w n q =>
    rw [State.drainResponse, State.entryResponse]
    split
    · split
      · exact hR.entryAnswered s _ _ _ _
      · exact hR.refl _
    · exact hR.refl _
  | marker w n =>
    rw [State.drainResponse, State.markerResponse]
    split
    · split
      · exact hR.markerAnswered s _ _ _ _
      · exact hR.refl _
    · exact hR.refl _
  | orphan w =>
    rw [State.drainResponse, State.orphanResponse]
    split
    · exact hR.refl _
    · exact hR.drainTake s _

/-- The end of a soft reset leaves the ports alone (R18, R186). -/
theorem ChannelClosed.softResetCheck (hR : ChannelClosed R) (s : State) : R s s.softResetCheck := by
  unfold State.softResetCheck
  split
  · exact hR.elsewhere _ _ rfl rfl rfl
  · exact hR.refl _

/-! ### Link reset, timers and epochs -/

/-- The groups of window `w` at a link reset (R86). -/
theorem Closed.linkResetWindow (hR : Closed R) (s : State) (w : WIdx) : R s (s.linkResetWindow w) :=
  hR.trans (hR.modWin s w _) (hR.trans (hR.discardYoungestIf _ _ _ _) (hR.discardYoungestIf _ _ _ _))

theorem ChannelClosed.holdExpiry (hR : ChannelClosed R) (s : State) (k : HoldNo) : R s (s.holdExpiry k) := by
  unfold State.holdExpiry
  split
  · split
    · exact hR.expireHeld s _
    · exact hR.refl _
  · exact hR.refl _

theorem ChannelClosed.ageExpiry (hR : ChannelClosed R) (s : State) (w : WIdx) : R s (s.ageExpiry w) := by
  unfold State.ageExpiry
  split
  · split
    · split
      · exact hR.ageOut s _ _
      · exact hR.refl _
    · exact hR.refl _
  · exact hR.refl _

theorem ChannelClosed.tick (hR : ChannelClosed R) (s : State) : R s s.tick :=
  hR.trans (hR.elsewhere _ { s with timeCount := s.timeCount + 1 } rfl rfl rfl) (hR.foldl _ hR.ageExpiry _ _)

theorem ChannelClosed.epochDeliver (hR : ChannelClosed R) (s : State) (w : WIdx) : R s (s.epochDeliver w) := by
  unfold State.epochDeliver
  split
  · exact hR.refl _
  · exact hR.trans (hR.elsewhere _ (s.setDue w _) rfl rfl rfl) (hR.epochAt _ _ w)

theorem ChannelClosed.epochEvent (hR : ChannelClosed R) (s : State) (d : EpochDelivery) : R s (s.epochEvent d) := by
  have hsample : ∀ (s : State) (l : Bool), R s (s.epochSample l) := fun s l => by
    unfold State.epochSample
    split <;> exact hR.elsewhere _ _ rfl rfl rfl
  exact hR.trans (hR.foldl _ hsample _ _) (hR.foldl _ hR.epochDeliver _ _)

/-! ### The commands of the port -/

/-- The port's index and count checks for a command, in their order (R173 checks 3 and 4). -/
def Instr.portCheck : Instr → Option Status
  | .readWindows first count => rangeCheck first.toNat 16 count.toNat 16
  | .writeWindow op => windowCheck op.index
  | .setOnline w => windowCheck w
  | .setOfflineFinish w _ => windowCheck w
  | .setOfflineDrop w _ => windowCheck w
  | .seal w => windowCheck w
  | .release w => windowCheck w
  | .discard w => windowCheck w
  | .clearFaultRetry w _ => windowCheck w
  | .clearFaultAbandon w _ => windowCheck w
  | .readGroups w => windowCheck w
  | .readAreas first count => rangeCheck first.toNat 8 count.toNat 8
  | .writeArea a _ _ => areaCheck a
  | .readSlots first count => rangeCheck first.toNat 512 count.toNat 16
  | .readStats w zero => if w.toNat < 16 then if zero.toNat ≤ 1 then none else some .badValue else some .badIndex
  | _ => none

/-- What the owning block answers to a command that passes the port's checks (R171, R173). -/
def State.portAnswer (s : State) : Instr → Answer
  | .badCommand _ => answer .badCommand s
  | .identify => ⟨.ok, s.identity, s⟩
  | .readWindows first count => ⟨.ok, tableResult 16 32 first.toNat count.toNat s.windowBytes, s⟩
  | .writeWindow op => s.writeWindow (windowOf op.index) op
  | .setOnline w => s.setOnline (windowOf w)
  | .setOfflineFinish w mode => s.setOffline (windowOf w) (mode == QuiesceMode.finish.code) fun s => s.quiesceFinish (windowOf w)
  | .setOfflineDrop w mode => s.setOffline (windowOf w) (mode == QuiesceMode.drop.code) fun s => s.quiesceDrop (windowOf w)
  | .seal w => s.sealCommand (windowOf w)
  | .release w => s.releaseCommand (windowOf w)
  | .discard w => s.discardCommand (windowOf w)
  | .clearFaultRetry w action =>
    s.clearFault (windowOf w) (action == 0#8) fun s => (s.retryFaulted (windowOf w)).drainTake (windowOf w)
  | .clearFaultAbandon w action => s.clearFault (windowOf w) (action == 1#8) fun s => s.abandonFaulted (windowOf w)
  | .readGroups w => ⟨.ok, groupsResult (s.win (windowOf w)).groups, s⟩
  | .readAreas first count => ⟨.ok, tableResult 8 7 first.toNat count.toNat s.areaBytes, s⟩
  | .writeArea a first count => s.writeArea (areaOf a) first.toNat count.toNat
  | .readSlots first count => ⟨.ok, tableResult 512 17 first.toNat count.toNat s.slotSummary, s⟩
  | .popEvents n => s.popEvents n.toNat
  | .readStats w zero => s.readStats (windowOf w) zero
  | .softReset abandonOrder quiesceOrder => answer .accepted (s.beginSoftReset abandonOrder quiesceOrder)
  | _ => answer .ok s

/-- Every command of the port, but for a known code that came as BAD_COMMAND, is one taking: gated where it is not in the permitted
set, with its checks, then its block's answer (R171, R173). -/
theorem exec_port_eq (c : Instr) (hc : c.isPortCommand = true) (hk : ∀ code, c = .badCommand code → knownCodes.contains code = false)
    (s : State) : exec c s = s.take c (!c.isPermitted) (Instr.portCheck c) fun s => s.portAnswer c := by
  match c, hc, hk with
  | .badCommand code, _, hk => rw [exec, execBadCommand, if_neg (by rw [hk code rfl]; decide)]; rfl
  | .identify, _, _ => rfl
  | .readWindows _ _, _, _ => rfl
  | .writeWindow _, _, _ => rfl
  | .setOnline _, _, _ => rfl
  | .setOfflineFinish _ _, _, _ => rfl
  | .setOfflineDrop _ _, _, _ => rfl
  | .seal _, _, _ => rfl
  | .release _, _, _ => rfl
  | .discard _, _, _ => rfl
  | .clearFaultRetry _ _, _, _ => rfl
  | .clearFaultAbandon _ _, _, _ => rfl
  | .readGroups _, _, _ => rfl
  | .readAreas _ _, _, _ => rfl
  | .writeArea _ _ _, _, _ => rfl
  | .readSlots _ _, _, _ => rfl
  | .popEvents _, _, _ => rfl
  | .readStats _ _, _, _ => rfl
  | .softReset _ _, _, _ => rfl

/-- A known code that came as BAD_COMMAND is no command, and nothing is taken. -/
theorem exec_badCommand_known (code : Byte) (h : knownCodes.contains code = true) (s : State) : exec (.badCommand code) s = .next s := by
  rw [exec, execBadCommand, if_pos h]

/-- A taking does nothing, or it leaves a reply: of the port's checks, with nothing else changed, or of the owning block, after its
act. -/
theorem take_cases {s t : State} {c : Instr} {g : Bool} {k : Option Status} {a : State → Answer} (h : s.take c g k a = .next t) :
    t = s ∨ ∃ bytes, t = s.withReply bytes ∨ t = (a s).state.withReply bytes := by
  unfold State.take at h
  injection h with h
  subst h
  split
  · split
    · exact .inr ⟨_, .inl (Answer.placed_eq _)⟩
    · split
      · exact .inr ⟨_, .inl (Answer.placed_eq _)⟩
      · exact .inr ⟨_, .inr (Answer.placed_eq _)⟩
  · exact .inl rfl

/-- What a command of the port can do. -/
theorem exec_port_cases (c : Instr) (hc : c.isPortCommand = true) {s t : State} (h : exec c s = .next t) :
    t = s ∨ ∃ bytes, t = s.withReply bytes ∨ t = (s.portAnswer c).state.withReply bytes := by
  by_cases hk : ∀ code, c = .badCommand code → knownCodes.contains code = false
  · rw [exec_port_eq c hc hk] at h
    exact take_cases h
  · push Not at hk
    obtain ⟨code, rfl, hk⟩ := hk
    rw [exec_badCommand_known code (by simpa using hk)] at h
    exact .inl (by injection h with h; exact h.symm)

/-- A write of a window's configuration, or of its enables, leaves the ports alone (R21, R24). -/
theorem ChannelClosed.writeWindow (hR : ChannelClosed R) (s : State) (w : WIdx) (op : WindowOperands) :
    R s (s.writeWindow w op).state := by
  unfold State.writeWindow State.writeEnables State.configureWindow
  repeat' split
  all_goals exact hR.elsewhere _ _ rfl rfl rfl

theorem ChannelClosed.writeArea (hR : ChannelClosed R) (s : State) (a : AIdx) (first count : Nat) :
    R s (s.writeArea a first count).state := by
  unfold State.writeArea
  repeat' split
  all_goals exact hR.elsewhere _ _ rfl rfl rfl

theorem ChannelClosed.setOffline (hR : ChannelClosed R) (s : State) (w : WIdx) (l : Bool) (q : State → State)
    (hq : (s.win w).state ≠ .unused → R s (q s)) : R s (s.setOffline w l q).state := by
  unfold State.setOffline
  split
  · split
    · next h => exact hq (by rw [h]; decide)
    all_goals exact hR.refl _
  · exact hR.refl _

theorem ChannelClosed.clearFault (hR : ChannelClosed R) (s : State) (w : WIdx) (l : Bool) (act : State → State)
    (ha : ∀ u, R u (act u)) : R s (s.clearFault w l act).state := by
  unfold State.clearFault
  split
  · split
    · exact hR.trans (hR.modWin _ _ _) (ha _)
    · exact hR.refl _
  · exact hR.refl _

theorem ChannelClosed.retryFaulted (hR : ChannelClosed R) (s : State) (w : WIdx) : R s (s.retryFaulted w) := by
  unfold State.retryFaulted
  split
  · split
    · exact hR.setOldest s w _
    · exact hR.refl s
  · exact hR.refl s

theorem ChannelClosed.beginSoftReset (hR : ChannelClosed R) (s : State) (o p : List WIdx) : R s (s.beginSoftReset o p) := by
  have habandon : ∀ (s : State) (w : WIdx), R s (s.softAbandon w) := fun s w => by
    unfold State.softAbandon
    split
    · exact hR.trans (hR.modWin _ _ _) (hR.abandonFaulted _ w)
    · exact hR.refl _
  have hquiesce : ∀ (s : State) (w : WIdx), R s (s.softQuiesce w) := fun s w => by
    unfold State.softQuiesce
    split
    · next h => exact hR.quiesceDrop s w (by rw [h]; decide)
    · exact hR.elsewhere _ _ rfl rfl rfl
    all_goals exact hR.refl _
  exact hR.trans (hR.elsewhere _ { s with softReset := true } rfl rfl rfl)
    (hR.trans (hR.foldl _ habandon _ _) (hR.trans (hR.foldl _ hquiesce _ _) (hR.softResetCheck _)))

theorem ChannelClosed.portAnswer (hR : ChannelClosed R) (s : State) (c : Instr) (hc : c.isPortCommand = true) :
    R s (s.portAnswer c).state := by
  match c, hc with
  | .writeWindow op, _ => exact hR.writeWindow s (windowOf op.index) op
  | .setOnline w, _ => rw [State.portAnswer, State.setOnline]; split <;> exact hR.elsewhere _ _ rfl rfl rfl
  | .setOfflineFinish w mode, _ => rw [State.portAnswer]; exact hR.setOffline s _ _ _ fun h => hR.quiesceFinish s _ h
  | .setOfflineDrop w mode, _ => rw [State.portAnswer]; exact hR.setOffline s _ _ _ fun h => hR.quiesceDrop s _ h
  | .seal w, _ =>
    rw [State.portAnswer, State.sealCommand]
    split
    · rw [answer_state]
      exact hR.trans (hR.sealOpen s _ _ _ _) (hR.afterSeal _ _)
    · exact hR.refl s
  | .release w, _ =>
    rw [State.portAnswer, State.releaseCommand]
    split
    · exact hR.releaseAll s _ _
    · exact hR.refl s
  | .discard w, _ =>
    rw [State.portAnswer, State.discardCommand]
    split
    · exact hR.discardUnreleased s _ _
    · exact hR.refl s
  | .clearFaultRetry w action, _ =>
    rw [State.portAnswer]
    refine hR.clearFault s _ _ _ fun u => ?_
    exact hR.trans (hR.retryFaulted u (windowOf w)) (hR.drainTake (u.retryFaulted (windowOf w)) (windowOf w))
  | .clearFaultAbandon w action, _ =>
    rw [State.portAnswer]
    exact hR.clearFault s _ _ _ fun u => hR.abandonFaulted u _
  | .writeArea a first count, _ => exact hR.writeArea s (areaOf a) first.toNat count.toNat
  | .popEvents n, _ => rw [State.portAnswer, State.popEvents]; split <;> exact hR.elsewhere _ _ rfl rfl rfl
  | .readStats w zero, _ => rw [State.portAnswer, State.readStats]; dsimp only; split <;> exact hR.elsewhere _ _ rfl rfl rfl
  | .softReset o p, _ => exact hR.beginSoftReset s o p
  | .badCommand _, _ | .identify, _ | .readWindows _ _, _ | .readGroups _, _ | .readAreas _ _, _ | .readSlots _ _, _ => exact hR.refl s

theorem ChannelClosed.execPort (hR : ChannelClosed R) (c : Instr) (hc : c.isPortCommand = true) (s t : State)
    (h : exec c s = .next t) : R s t := by
  obtain rfl | ⟨bytes, rfl | rfl⟩ := exec_port_cases c hc h
  · exact hR.refl _
  · exact hR.elsewhere _ _ rfl rfl rfl
  · exact hR.trans (hR.portAnswer s c hc) (hR.elsewhere _ _ rfl rfl rfl)

theorem ChannelClosed.serialRun (hR : ChannelClosed R) (s : State) (r : SerialRun) : R s (s.serialRun r) := by
  have hclocks : R s (s.clocks r.mdi) :=
    clocks_keep hR.refl hR.trans (fun _ _ _ _ _ _ => hR.elsewhere _ _ rfl rfl rfl) hR.execPort s r.mdi
  unfold State.serialRun
  split
  · exact hR.trans hclocks (hR.elsewhere _ _ rfl rfl rfl)
  · exact hclocks

end Sys2Proof.Machine
end

section
/-! O10. Every step keeps the law of the forwarder's pending list and credits, and gives the drain engine no ninth credit (R7, R13, R15,
R107): the takings at the two memory ports one by one, and every other taking through `ChannelClosed`. -/

namespace Sys2Proof.Machine

/-- `t` has each of the two laws of the ports if `s` has it. -/
def KeepsPortLaws (s t : State) : Prop := (s.forwardLaw → t.forwardLaw) ∧ (s.creditLaw → t.creditLaw)

theorem KeepsPortLaws.refl (s : State) : KeepsPortLaws s s := ⟨id, id⟩

theorem KeepsPortLaws.trans {s t u : State} (h : KeepsPortLaws s t) (k : KeepsPortLaws t u) : KeepsPortLaws s u :=
  ⟨k.1 ∘ h.1, k.2 ∘ h.2⟩

theorem keepsPortLaws_of_same {s t : State} (hr : t.transit = s.transit) (hf : t.fwd = s.fwd) (hc : t.credits = s.credits) :
    KeepsPortLaws s t :=
  ⟨forwardLaw_congr hr hf hc, creditLaw_congr hc⟩

theorem Credit.orphaned_eq_forwarder (c : Credit) (w : WIdx) (n : Byte) (t : RecNo) :
    c.orphaned w n = .forwarder (some t) ↔ c = .forwarder (some t) := by
  unfold Credit.orphaned
  split <;> (try split) <;> simp

theorem Credit.orphaned_isDrain (c : Credit) (w : WIdx) (n : Byte) : (c.orphaned w n).isDrain = c.isDrain := by
  unfold Credit.orphaned
  split <;> (try split) <;> rfl

theorem keepsPortLaws_closed : ChannelClosed KeepsPortLaws where
  refl := .refl
  trans := .trans
  setWin _ _ _ _ := keepsPortLaws_of_same rfl rfl rfl
  setUsed _ _ _ := keepsPortLaws_of_same rfl rfl rfl
  modRcd _ _ _ hp hf := ⟨forwardLaw_modRcd_group hp hf, creditLaw_congr rfl⟩
  holds _ _ := keepsPortLaws_of_same rfl rfl rfl
  offer _ _ := keepsPortLaws_of_same (by simp) (by simp) (by simp)
  freeSlots _ _ := keepsPortLaws_of_same rfl rfl rfl
  mapSlots _ _ _ := keepsPortLaws_of_same rfl rfl rfl
  insertSlot _ _ _ _ _ := keepsPortLaws_of_same rfl rfl rfl
  elsewhere _ _ := keepsPortLaws_of_same
  orphaned s w n := by
    refine ⟨forwardLaw_credits (by simp) (by simp) fun c u hu => ?_, creditLaw_of_isDrain fun c => ?_⟩
    · rwa [State.credit_mapCredits, Credit.orphaned_eq_forwarder] at hu
    · rw [State.credit_mapCredits, Credit.orphaned_isDrain]
      exact id

/-! ### Requests and responses on the upstream port -/

/-- A record written while it has no part in the forwarder, with a value that has none. -/
theorem keepsPortLaws_setRcd {s : State} {t : RecNo} {x : Option Transit} (ho : offPort (s.rcd t)) (hx : offPort x) :
    KeepsPortLaws s (s.setRcd t x) :=
  ⟨forwardLaw_setRcd ho hx, creditLaw_congr rfl⟩

/-- A MERGE read that has just been accepted is answered from its snapshot or joins the pending list (R132, R133). -/
theorem keepsPortLaws_takeRead {s : State} {t : RecNo} {x : Transit} (hx : s.rcd t = some x) (ho : offPort (some x))
    (hp : x.path = .merge) (w : WIdx) (src : Source) (l : Line) (lanes : Lanes) : KeepsPortLaws s (s.takeRead t w src l lanes) := by
  unfold State.takeRead
  dsimp only
  split
  · refine keepsPortLaws_setRcd (by rwa [hx]) ?_
    rw [hx]
    exact offPort_answer rfl
  · refine ⟨forwardLaw_join (x := { x with wait := .credit, snapshot := some (s.snapshot w src l lanes) }) (by rwa [hx]) (fun u => ?_)
      rfl rfl rfl (by simp [hp]), creditLaw_congr rfl⟩
    rw [State.modRcd, hx]
    exact s.rcd_setRcd t u _

/-- The record of a request joins the forwarder, the read merge unit or the window controller (R10). -/
theorem keepsPortLaws_classify {s : State} {t : RecNo} (ht : s.rcd t = none) (r : UpRequest) : KeepsPortLaws s (s.classify t r) := by
  have ho : offPort (s.rcd t) := ht ▸ offPort_none
  have hpass : KeepsPortLaws s (s.passRequest t r) :=
    ⟨forwardLaw_join ho (fun u => s.rcd_setRcd t u _) rfl rfl rfl (by simp), creditLaw_congr rfl⟩
  have hwindow : ∀ w, KeepsPortLaws s (s.windowRequest t r w) := fun w => by
    unfold State.windowRequest
    split
    · exact (keepsPortLaws_setRcd ho (offPort_answer rfl)).trans
        (keepsPortLaws_takeRead (s.rcd_setRcd_same t _) (offPort_answer rfl) rfl _ _ _ _)
    · exact (keepsPortLaws_setRcd ho (offPort_answer rfl)).trans (keepsPortLaws_closed.takeWrite _ _)
  unfold State.classify
  split
  · exact hpass
  · split
    · exact hwindow _
    · exact hpass

theorem keepsPortLaws_receive (s : State) (r : UpRequest) : KeepsPortLaws s (s.receive r) := by
  unfold State.receive
  split
  · split
    · next t hfree =>
      have ht : s.clearChannel.rcd t = none := ((s.freeRcd?_eq_some t).1 hfree).1
      refine (keepsPortLaws_of_same (t := s.clearChannel) rfl rfl rfl).trans ?_
      unfold State.accept
      split
      · exact keepsPortLaws_setRcd (ht ▸ offPort_none) (offPort_answer rfl)
      · exact keepsPortLaws_classify ht r
    · exact .refl s
  · exact keepsPortLaws_of_same rfl rfl rfl

theorem keepsPortLaws_acceptWaiting (s : State) : KeepsPortLaws s s.acceptWaiting := by
  unfold State.acceptWaiting
  split
  · split
    · exact keepsPortLaws_receive s _
    · exact .refl s
  · exact .refl s

theorem keepsPortLaws_present (s : State) (r : UpRequest) : KeepsPortLaws s (s.present r) := by
  unfold State.present
  split
  · exact keepsPortLaws_receive s r
  · exact (keepsPortLaws_acceptWaiting s).trans (keepsPortLaws_receive _ r)

/-- A record whose response is due waits for nothing else. -/
theorem State.dueResponse?_some {s : State} {t : RecNo} {p : UpResponse} (h : s.dueResponse? t = some p) :
    ∃ r, s.rcd t = some r ∧ r.wait = .answer := by
  unfold State.dueResponse? at h
  split at h
  · cases h
  · split at h
    · cases h
    · next r hr =>
      split at h
      · next hw => exact ⟨r, hr, hw⟩
      · cases h

theorem keepsPortLaws_respond (s : State) (t : RecNo) : KeepsPortLaws s (s.respond t) := by
  unfold State.respond
  split
  · next hdue =>
    obtain ⟨r, hr, hw⟩ := State.dueResponse?_some hdue
    exact (keepsPortLaws_setRcd (hr ▸ offPort_answer hw) offPort_none).trans (keepsPortLaws_of_same rfl rfl rfl)
  · exact .refl s

/-! ### The arbiter and the downstream port -/

/-- A FREE credit for the forwarder. A head of the pending list without a record would break the law that it waits for a credit. -/
theorem keepsPortLaws_grantForwarder {s : State} {c : CreditNo} : KeepsPortLaws s (s.grantForwarder c) := by
  unfold State.grantForwarder
  split
  · exact .refl s
  · next t rest hfwd =>
    split
    · next ht =>
      refine ⟨fun h => ?_, creditLaw_congr rfl⟩
      obtain ⟨-, hpend, -⟩ := h
      exact absurd ((hpend t).1 (by simp [hfwd])) (State.not_waits_credit (ht ▸ offPort_none))
    · next x hx =>
      refine ⟨forwardLaw_grant (c := c) (y := { x with wait := .downstream }) hfwd hx (fun u => ?_) rfl rfl fun d => ?_, fun h => ?_⟩
      · simp only [State.modRcd, hx]
        exact s.rcd_setRcd t u _
      · exact s.credit_setCredit c d _
      · exact creditLaw_congr rfl (creditLaw_setCredit (s := s) (c := c) (x := .forwarder (some t)) rfl h)

/-- A FREE credit for the drain engine, which waits at the arbiter only while fewer than 8 are HELD by DRAIN (R102). -/
theorem keepsPortLaws_toDrain {s u : State} {c : CreditNo} {cl : DrainClient} (hroom : s.drainHeld < Config.drainCredits) (ht : u.transit = s.transit) (hf : u.fwd = s.fwd)
    (hc : u.credits = (s.setCredit c (.drain cl)).credits) : KeepsPortLaws s u := by
  refine ⟨forwardLaw_credits ht hf fun d t hd => ?_, fun _ => creditLaw_congr hc (creditLaw_grant hroom)⟩
  rw [State.credit, hc] at hd
  have hd : (s.setCredit c (.drain cl)).credit d = .forwarder (some t) := hd
  rw [State.credit_setCredit] at hd
  split at hd
  · cases hd
  · exact hd

theorem keepsPortLaws_grantDrain {s : State} {c : CreditNo} (hroom : s.drainHeld < Config.drainCredits) :
    KeepsPortLaws s (s.grantDrain c) := by
  unfold State.grantDrain
  split
  · exact .refl s
  · split
    · exact keepsPortLaws_toDrain hroom rfl rfl rfl
    · unfold State.grantMarker
      split
      · exact keepsPortLaws_toDrain hroom rfl rfl rfl
      · exact .refl s
    · exact .refl s

/-- The drain engine wins a grant only while it waits at the arbiter. -/
theorem State.drainWaiting_of_winner {s : State} (h : s.winner = some .drain) : s.drainWaiting = true := by
  unfold State.winner at h
  split at h
  · cases h
  · cases h
  · assumption
  · assumption

theorem keepsPortLaws_grantOne (s : State) : KeepsPortLaws s s.grantOne := by
  unfold State.grantOne
  split
  · exact .refl s
  · split
    · exact keepsPortLaws_grantForwarder
    · next c _ hwinner =>
      have hwait := State.drainWaiting_of_winner hwinner
      simp only [State.drainWaiting, Bool.and_eq_true, decide_eq_true_eq] at hwait
      exact keepsPortLaws_grantDrain hwait.2
    · exact .refl s

theorem Transit.downAnswer_wait (r : Transit) (res : Result) (data : LineData) : (r.downAnswer res data).wait = .answer := by
  unfold Transit.downAnswer
  split
  · split <;> rfl
  · rfl
  · rfl

theorem keepsPortLaws_downResponse (s : State) (c : CreditNo) (res : Result) (data : LineData) :
    KeepsPortLaws s (s.downResponse c res data) := by
  have hfreed : KeepsPortLaws s (s.setCredit c .free) := by
    refine ⟨forwardLaw_credits rfl rfl fun d u hd => ?_, creditLaw_setCredit rfl⟩
    rw [State.credit_setCredit] at hd
    split at hd
    · cases hd
    · exact hd
  unfold State.downResponse
  split
  · exact .refl s
  · split
    · exact .refl s
    · exact hfreed
    · next t hcl =>
      refine ⟨forwardLaw_answer hcl fun r hr => ?_, fun h => creditLaw_congr rfl (hfreed.2 h)⟩
      obtain ⟨q, -, rfl⟩ := Option.map_eq_some_iff.1 hr
      simp [q.downAnswer_wait]
    · exact hfreed.trans ((keepsPortLaws_closed.drainResponse _ _ _).trans (keepsPortLaws_closed.softResetCheck _))

/-! ### Resets -/

theorem State.credit_dropRequests (s : State) (c : CreditNo) : s.dropRequests.credit c = (s.credit c).unclient := by
  simp [State.dropRequests, State.credit, State.mapCredits]

/-- After the drop of every request no record, no pending request and no client is left (R18). -/
theorem keepsPortLaws_dropRequests (s : State) : KeepsPortLaws s s.dropRequests := by
  refine ⟨fun _ => forwardLaw_of_empty (fun u => ?_) rfl fun c u => ?_, creditLaw_of_isDrain fun c => ?_⟩
  · simp [State.rcd, State.dropRequests]
  · rw [State.credit_dropRequests]
    cases s.credit c <;> simp [Credit.unclient]
  · rw [State.credit_dropRequests]
    cases s.credit c <;> simp [Credit.unclient, Credit.isDrain]

theorem keepsPortLaws_linkReset (s : State) (order : List WIdx) : KeepsPortLaws s (s.linkReset order) := by
  have hoffer := keepsPortLaws_closed.offer s.dropRequests evLinkReset
  have hwindows := keepsPortLaws_closed.foldl _ keepsPortLaws_closed.linkResetWindow (visitOrder order) (s.dropRequests.offer evLinkReset)
  exact ((keepsPortLaws_dropRequests s).trans hoffer).trans hwindows

/-- A state with the transit table, the pending list and the credits of the reset tables has both laws. -/
theorem portLaws_of_reset {s : State} (ht : s.transit = State.reset.transit) (hf : s.fwd = []) (hc : s.credits = State.reset.credits) :
    s.forwardLaw ∧ s.creditLaw := by
  have hcredit : ∀ c, s.credit c = .free := fun c => by simp [State.credit, hc, State.reset]
  refine ⟨forwardLaw_of_empty (fun u => ?_) hf fun c u => by simp [hcredit], ?_⟩
  · simp [State.rcd, ht, State.reset]
  · rw [State.creditLaw, drainHeld_eq_countP]
    simp [hcredit, Credit.isDrain]

/-! ### The step -/

theorem keepsPortLaws_ite {s t u : State} {p : Prop} [Decidable p] (ht : KeepsPortLaws s t) (hu : KeepsPortLaws s u) :
    KeepsPortLaws s (if p then t else u) := by
  split
  · exact ht
  · exact hu

/-- Every command keeps the two laws of the ports. -/
theorem keepsPortLaws_exec (c : Instr) (s t : State) (h : exec c s = .next t) : KeepsPortLaws s t := by
  cases hc : c.isPortCommand
  case true => exact keepsPortLaws_closed.execPort c hc s t h
  have unlessReset : ∀ {u : State}, KeepsPortLaws s u → KeepsPortLaws s (if s.resetAsserted then s else u) :=
    keepsPortLaws_ite (.refl s)
  cases c with
  | upstreamRequest r => cases h; exact keepsPortLaws_present s r
  | upstreamResponse t => cases h; exact keepsPortLaws_respond s t
  | grant => cases h; exact keepsPortLaws_grantOne s
  | downstreamIssue =>
    cases h
    unfold State.issueOne
    split <;> exact keepsPortLaws_of_same rfl rfl rfl
  | downstreamResponse c res data => cases h; exact keepsPortLaws_downResponse s c res data
  | reevaluationPass => cases h; exact unlessReset (keepsPortLaws_closed.pass s)
  | epochEvent d => cases h; exact unlessReset (keepsPortLaws_closed.epochEvent s d)
  | ageExpiry w => cases h; exact unlessReset (keepsPortLaws_closed.ageExpiry s w)
  | holdExpiry k => cases h; exact unlessReset (keepsPortLaws_closed.holdExpiry s k)
  | linkReset order =>
    cases h
    exact keepsPortLaws_ite (.refl s) (keepsPortLaws_ite (keepsPortLaws_of_same rfl rfl rfl) (keepsPortLaws_linkReset s order))
  | linkResetRelease => cases h; exact keepsPortLaws_of_same rfl rfl rfl
  | powerOnReset =>
    cases h
    obtain ⟨hf, hcr⟩ := portLaws_of_reset (s := s.powerOn) rfl rfl rfl
    exact ⟨fun _ => hf, fun _ => hcr⟩
  | powerOnResetRelease high => cases h; exact keepsPortLaws_ite (keepsPortLaws_of_same rfl rfl rfl) (.refl s)
  | transactionEndsEarly r => cases h; exact keepsPortLaws_ite (.refl s) (keepsPortLaws_closed.serialRun s r)
  | usTick => cases h; exact unlessReset (keepsPortLaws_closed.tick s)
  | transactionStart => cases h; exact unlessReset (keepsPortLaws_of_same rfl rfl rfl)
  | _ => cases hc

/-- What the block does with no command waiting keeps the two laws of the ports. -/
theorem keepsPortLaws_idle (s : State) : KeepsPortLaws s s.idle := by
  unfold State.idle
  split
  · exact keepsPortLaws_closed.epochDeliver s _
  · exact keepsPortLaws_acceptWaiting s

/-- Settles O10: every step, on a command or on an empty queue, keeps the two laws. -/
theorem stepKeepsPortLaws : Obligations.StepKeepsPortLaws := by
  intro s t h
  unfold step at h
  split at h
  · next c rest _ =>
    exact (keepsPortLaws_of_same (t := { s with pending := rest }) rfl rfl rfl).trans (keepsPortLaws_exec c _ t h)
  · cases h
    exact keepsPortLaws_idle s

end Sys2Proof.Machine
end

section
/-! O2, O11 to O14. Requests and responses on the upstream port (R2, R3, R5, R6, R8 to R10, R13). -/

namespace Sys2Proof.Machine

/-! ### The upstream channel between commands -/

theorem State.receive_not_ready {s : State} (h : s.upReady = false) (r : UpRequest) : s.receive r = { s with upWaiting := some r } := by
  rw [State.receive, h]
  rfl

/-- Where no request waits, or ready is deasserted, nothing is accepted. -/
theorem State.acceptWaiting_idle {s : State} (h : s.upWaiting = none ∨ s.upReady = false) : s.acceptWaiting = s := by
  unfold State.acceptWaiting
  split
  · next r hr =>
    rw [hr] at h
    simp [h.resolve_left (by simp)]
  · rfl

/-- The request that waits is accepted as though it were presented now. -/
theorem State.acceptWaiting_eq_present {s : State} {r : UpRequest} (hr : s.upWaiting = some r) (h : s.upReady = true) :
    s.acceptWaiting = s.present r := by
  rw [State.acceptWaiting, hr, State.present, if_pos hr]
  exact if_pos h

/-- With no epoch event on its way, or with RESET_N asserted, the block by itself does no more than accept the waiting request. -/
theorem State.idle_eq_acceptWaiting {s : State} (h : s.resetAsserted = true ∨ ∀ w, s.due w = []) : s.idle = s.acceptWaiting := by
  have : s.dueWindow? = none := by
    unfold State.dueWindow?
    rcases h with h | h
    · simp [h]
    · simp [h]
  rw [State.idle, this]

theorem step_idle {s : State} (h : s.pending = []) : step s = .next s.idle := by
  rw [step, h]

/-- Settles O2: presented while ready is deasserted, then the step on an empty queue. -/
theorem channelWaitsForReady : Obligations.ChannelWaitsForReady := by
  intro s
  refine ⟨fun r hready => ?_, fun hpending hdue => ⟨fun r hr hready => ?_, fun hidle => ?_⟩⟩
  · rw [exec, execUpstreamRequest, State.present, State.acceptWaiting_idle (.inr hready), State.receive_not_ready hready, ite_self]
  · rw [step_idle hpending, State.idle_eq_acceptWaiting hdue, State.acceptWaiting_eq_present hr hready]
    rfl
  · rw [step_idle hpending, State.idle_eq_acceptWaiting hdue, State.acceptWaiting_idle hidle]

/-! ### Acceptance -/

/-- A request refused at its acceptance: the record taken is answered, and the channel is free again (R8, R9). -/
theorem accept_refused (s : State) (t : RecNo) (r : UpRequest) (h : r.lanes = 0 ∨ s.isDuplicate r = true) :
    s.clearChannel.accept t r =
      s.intake t { acceptedRecord r with path := .noPath, wait := .answer, result := some .refused } := by
  have h : r.lanes = 0 ∨ s.clearChannel.isDuplicate r = true := h
  rw [State.accept, if_pos h]
  rfl

/-- Settles O11: the byte enable set is tested before anything else. -/
theorem emptyRequestIsRefused : Obligations.EmptyRequestIsRefused := by
  intro s r hchannel hready hlanes
  obtain ⟨t, hfree, -, hexec⟩ := accept_eq s r hchannel hready
  exact ⟨t, hfree, by rw [hexec, accept_refused s t r (.inl hlanes)]⟩

theorem State.isDuplicate_of_rcd {s : State} {r : UpRequest} {u : RecNo} {x : Transit} (hx : s.rcd u = some x)
    (hs : x.source = r.source) (ht : x.tag = r.tag) : s.isDuplicate r = true := by
  by_contra h
  exact (s.isDuplicate_eq_false r).1 (by simpa using h) u x hx ⟨hs, ht⟩

/-- Settles O12: the earlier record is not the free one that the duplicate takes. -/
theorem duplicateIsRefused : Obligations.DuplicateIsRefused := by
  intro s r u x hchannel hready _ hx hs ht
  obtain ⟨t, hfree, -, hexec⟩ := accept_eq s r hchannel hready
  refine ⟨t, hfree, ?_, by rw [hexec, accept_refused s t r (.inr (State.isDuplicate_of_rcd hx hs ht))]⟩
  rintro rfl
  simp [hfree] at hx

/-- A request whose line lies in no window but UNUSED and OFFLINE ones is passed through (R10). -/
theorem State.classify_pass {s : State} {t : RecNo} {r : UpRequest}
    (h : ∀ w : WIdx, (s.win w).contains r.line = true → (s.win w).state = .unused ∨ (s.win w).state = .offline) :
    s.classify t r = s.passRequest t r := by
  unfold State.classify
  split
  · rfl
  · next w hw =>
    obtain ⟨hused, hcontains⟩ := s.windowAt?_some _ w hw
    have hoffline := (h w hcontains).resolve_left hused
    simp [hoffline, WState.live]

/-- Settles O13, by the classifier's choice of path. -/
theorem passThroughJoinsPendingList : Obligations.PassThroughJoinsPendingList := by
  intro s r hclass hwindows
  obtain ⟨t, hfree, hexec⟩ := classify_eq s r hclass
  exact ⟨t, hfree, by rw [hexec, State.classify_pass (s := s.clearChannel) hwindows]; rfl⟩

/-! ### The upstream response -/

theorem State.dueResponse?_eq {s : State} {t : RecNo} {x : Transit} {res : Result} (hreset : s.resetAsserted = false)
    (hlink : s.linkAsserted = false) (hx : s.rcd t = some x) (hw : x.wait = .answer) (hr : x.result = some res) :
    s.dueResponse? t = some ⟨x.source, x.tag, res, x.readData⟩ := by
  simp [State.dueResponse?, hreset, hlink, hx, hw, hr]

theorem State.dueResponse?_eq_none {s : State} {t : RecNo} (h : s.resetAsserted = true ∨ s.linkAsserted = true ∨ s.rcd t = none ∨
    ∃ x ∈ s.rcd t, x.wait ≠ .answer ∨ x.result = none) : s.dueResponse? t = none := by
  unfold State.dueResponse?
  rcases h with h | h | h | ⟨x, hx, h⟩
  · simp [h]
  · simp [h]
  · simp [h]
  · rw [Option.mem_def] at hx
    rcases h with h | h <;> simp [hx, h]

/-- Settles O14, by whether a response is due. -/
theorem responseIsSentOnce : Obligations.ResponseIsSentOnce := by
  intro s t
  refine ⟨fun x res hreset hlink hx hw hr => ?_, fun h => ?_⟩
  · rw [exec, execUpstreamResponse, State.respond, State.dueResponse?_eq hreset hlink hx hw hr]
    rfl
  · rw [exec, execUpstreamResponse, State.respond, State.dueResponse?_eq_none h]

end Sys2Proof.Machine
end

section
/-! O3, O4, O40, O41. The state after power-on reset (R19, R40, R59, R87, R100, R127, R142, R157, R168, R188), the laws that hold in it,
and the takings of the reset lines. -/

namespace Sys2Proof.Machine

/-! ### The records after reset -/

@[simp] theorem State.rcd_reset (t : RecNo) : State.reset.rcd t = none := by simp [State.rcd, State.reset]

@[simp] theorem State.credit_reset (c : CreditNo) : State.reset.credit c = .free := by simp [State.credit, State.reset]

@[simp] theorem State.win_reset (w : WIdx) : State.reset.win w = Window.zero := by simp [State.win, State.reset]

@[simp] theorem State.area_reset (a : AIdx) : State.reset.area a = Area.zero := by simp [State.area, State.reset]

@[simp] theorem State.due_reset (w : WIdx) : State.reset.due w = [] := by simp [State.due, State.reset]

/-- Every transit record is free, and neither reset line is asserted. -/
theorem State.upReady_reset : State.reset.upReady = true := by
  have hfree : State.reset.freeRcd? = some 0 := (State.freeRcd?_eq_some _ 0).2 ⟨State.rcd_reset 0, fun u hu => absurd hu (Fin.not_lt_zero u)⟩
  rw [State.upReady, hfree]
  rfl

/-- Settles O3, record by record. -/
theorem resetState : Obligations.ResetState :=
  ⟨State.rcd_reset, State.upReady_reset, rfl, State.credit_reset, rfl, rfl, State.win_reset, State.area_reset, rfl, rfl, rfl, rfl,
    State.due_reset, rfl, rfl, rfl, rfl, rfl, rfl, rfl, rfl, rfl, rfl⟩

/-! ### The laws after reset -/

/-- A window at its zero value holds no group and is neither QUIESCING nor FROZEN. -/
theorem Window.law_zero : Window.zero.law := by
  refine ⟨⟨by decide, by simp [Window.zero]⟩, fun _ => rfl, ?_, ?_, ?_, ?_, ?_⟩ <;> simp [Window.zero]

theorem tableLaw_reset : State.reset.tableLaw := by
  refine ⟨fun w => by rw [State.win_reset]; exact Window.law_zero, ⟨by simp [State.reset], by simp [State.reset]⟩, fun h => ?_⟩
  cases h

theorem configLaw_reset : State.reset.configLaw :=
  ⟨fun w => .inl (by rw [State.win_reset]; rfl), fun v _ _ hv => absurd (by rw [State.win_reset]; rfl) hv⟩

/-- Every area is empty, and no slot is USED. -/
theorem slotLaw_reset : State.reset.slotLaw := by
  refine ⟨fun a => ?_, fun a b _ ha => ?_, rfl, List.nodup_nil⟩
  · rw [State.area_reset]
    decide
  · rw [State.area_reset] at ha
    exact absurd ha (by decide)

theorem entryLaw_reset : State.reset.entryLaw := by
  refine ⟨fun e he => ?_, fun w g hg => ?_, fun a => ?_⟩
  · cases he
  · rw [State.win_reset] at hg
    cases hg
  · rw [State.area_reset]
    rfl

theorem deadlineLaw_reset : State.reset.deadlineLaw := by
  refine ⟨fun h => ?_, fun w g hg => ?_⟩
  · cases h
  · rw [State.win_reset] at hg
    cases hg

/-- Settles O4, law by law; the two laws of the ports hold of any state with the records of reset. -/
theorem lawsHoldAtReset : Obligations.LawsHoldAtReset := by
  obtain ⟨hforward, hcredit⟩ := portLaws_of_reset (s := State.reset) rfl rfl rfl
  exact ⟨⟨Nat.zero_le _, rfl⟩, tableLaw_reset, configLaw_reset, slotLaw_reset, entryLaw_reset, hforward, hcredit, deadlineLaw_reset⟩

/-! ### The reset lines -/

/-- Settles O40. -/
theorem powerOnResetClears : Obligations.PowerOnResetClears := by
  intro s
  rw [exec, execPowerOnReset, State.powerOn]

/-- Settles O41: each line, and RESET_N by whether it was asserted. -/
theorem resetReleases : Obligations.ResetReleases := by
  intro s high
  refine ⟨rfl, fun h => ?_, fun h => ?_⟩
  · rw [exec, execPowerOnResetRelease, if_pos h]
  · rw [exec, execPowerOnResetRelease, if_neg (by simp [h])]

end Sys2Proof.Machine
end

section
/-! O26 to O28. The arbiter's grants and the downstream issue (R13 to R16, R102, R105 to R108, R110). -/

namespace Sys2Proof.Machine

/-! ### Who waits, and who wins (R15, R102, R107) -/

theorem State.forwarderWaiting_eq_false {s : State} (h : s.fwd = []) : s.forwarderWaiting = false := by simp [State.forwarderWaiting, h]

theorem State.forwarderWaiting_cons {s : State} {t : RecNo} {rest : List RecNo} (h : s.fwd = t :: rest) : s.forwarderWaiting = true := by
  simp [State.forwarderWaiting, h]

theorem State.drainWaiting_iff (s : State) : s.drainWaiting = true ↔ (∃ w, (s.offers w).isSome = true) ∧ s.drainHeld < 8 := by
  rw [State.drainWaiting, Bool.and_eq_true, List.any_eq_true, decide_eq_true_eq]
  simp [Config.drainCredits]

/-- The drain engine does not wait while 8 credits are HELD by DRAIN, nor where no window offers a write. -/
theorem State.drainWaiting_eq_false {s : State} (h : 8 ≤ s.drainHeld ∨ ∀ w, s.offers w = none) : s.drainWaiting = false := by
  rw [← Bool.not_eq_true, State.drainWaiting_iff]
  rintro ⟨⟨w, hw⟩, hroom⟩
  rcases h with h | h
  · omega
  · simp [h w] at hw

/-- The forwarder waits, alone or when the last grant was the drain engine's. -/
theorem State.winner_forwarder {s : State} (hf : s.forwarderWaiting = true) (h : s.lastGrant = .drain ∨ s.drainWaiting = false) :
    s.winner = some .forwarder := by
  rw [State.winner, hf]
  cases hd : s.drainWaiting
  · rfl
  · rw [h.resolve_right (by simp [hd])]

/-- The drain engine waits, alone or when the last grant was the forwarder's. -/
theorem State.winner_drain {s : State} (hd : s.drainWaiting = true) (h : s.lastGrant = .forwarder ∨ s.forwarderWaiting = false) :
    s.winner = some .drain := by
  rw [State.winner, hd]
  cases hf : s.forwarderWaiting
  · rfl
  · rw [h.resolve_right (by simp [hf])]

/-! ### What GRANT does -/

theorem exec_grant_none {s : State} (h : s.freeCredit? = none ∨ s.winner = none) : exec .grant s = .next s := by
  rw [exec, execGrant, State.grantOne]
  rcases h with h | h
  · simp [h]
  · simp [h]

theorem exec_grant_forwarder {s : State} {c : CreditNo} (hreset : s.resetAsserted = false) (hc : s.lowestCredit c)
    (hw : s.winner = some .forwarder) : exec .grant s = .next (s.grantForwarder c) := by
  rw [exec, execGrant, State.grantOne, (s.freeCredit?_eq_some c).2 hc, hw, hreset]
  rfl

theorem exec_grant_drain {s : State} {c : CreditNo} (hreset : s.resetAsserted = false) (hc : s.lowestCredit c)
    (hw : s.winner = some .drain) : exec .grant s = .next (s.grantDrain c) := by
  rw [exec, execGrant, State.grantOne, (s.freeCredit?_eq_some c).2 hc, hw, hreset]
  rfl

/-- The head of the pending list takes the credit and waits for memory; its request joins the issue list (R13, R14, R16). -/
theorem State.grantForwarder_eq {s : State} {c : CreditNo} {t : RecNo} {rest : List RecNo} {x : Transit} (hfwd : s.fwd = t :: rest)
    (hx : s.rcd t = some x) :
    s.grantForwarder c =
      { (s.setRcd t (some { x with wait := .downstream })).setCredit c (.forwarder (some t)) with
        fwd := rest
        issue := s.issue ++ [x.forwarded c]
        lastGrant := .forwarder } := by
  rw [State.grantForwarder, hfwd]
  simp only [hx, State.modRcd, Option.map_some]
  rfl

/-- Settles O26: no grant for want of a credit or of a waiting requester, or the grant to the forwarder that wins. -/
theorem grantToForwarder : Obligations.GrantToForwarder := by
  intro s
  refine ⟨fun h => exec_grant_none ?_, fun c t rest x hreset hc hfwd hx h => ?_⟩
  · refine h.imp s.freeCredit?_eq_none.2 fun ⟨hfwd, hdrain⟩ => ?_
    rw [State.winner, State.forwarderWaiting_eq_false hfwd, State.drainWaiting_eq_false hdrain]
  · rw [exec_grant_forwarder hreset hc (State.winner_forwarder (State.forwarderWaiting_cons hfwd) (h.imp id State.drainWaiting_eq_false)),
      State.grantForwarder_eq hfwd hx]
    rfl

/-! ### The drain engine's turn (R108) -/

/-- The window that the drain engine examines first: the one after the turn pointer, or window 0 BEFORE_0 (R101, R108). -/
def turnStart (turn : Option WIdx) : WIdx :=
  match turn with
  | none => 0
  | some p => p + 1

theorem turnOrder_eq (turn : Option WIdx) : turnOrder turn = (List.finRange 16).map fun i => turnStart turn + i := by
  cases turn with
  | none => simp [turnOrder, turnStart]
  | some p => rfl

/-- A search over all indexes from `b` on, wrapping, finds `k` exactly when `k` is the first from `b` on that passes. -/
theorem find_finRange_from {n : Nat} [NeZero n] (p : Fin n → Bool) (b k : Fin n) :
    ((List.finRange n).map fun i => b + i).find? p = some k ↔ p k = true ∧ ∀ j : Fin n, j - b < k - b → p j = false := by
  rw [List.find?_map, Option.map_eq_some_iff]
  constructor
  · rintro ⟨i, hi, rfl⟩
    obtain ⟨hp, hlow⟩ := (find_finRange_eq_some _ _).1 hi
    refine ⟨hp, fun j hj => ?_⟩
    rw [add_sub_cancel_left] at hj
    simpa using hlow _ hj
  · rintro ⟨hp, hlow⟩
    refine ⟨k - b, (find_finRange_eq_some _ _).2 ⟨by simpa using hp, fun j hj => hlow _ (by simpa using hj)⟩, by simp⟩

/-- The window served is the first from the one after the turn pointer on, wrapping, that offers an issuable write. -/
theorem State.turnChoice_eq_some (s : State) (w : WIdx) :
    s.turnChoice = some w ↔
      (s.offers w).isSome = true ∧ ∀ v : WIdx, (v - turnStart s.turn).val < (w - turnStart s.turn).val → s.offers v = none := by
  rw [State.turnChoice, turnOrder_eq, find_finRange_from]
  simp only [Option.isSome_eq_false_iff, Option.isNone_iff_eq_none, Fin.lt_def]

/-! ### The entry of lowest sequence (R106) -/

/-- Where one entry is the best found so far or comes later, and every other has a higher sequence, that one is found. -/
theorem foldl_lowerSequence (e : Entry) (l : List Entry) (best : Option Entry) (hlow : ∀ y ∈ l, y ≠ e → e.sequence < y.sequence)
    (hbest : ∀ b ∈ best, b ≠ e → e.sequence < b.sequence) (he : best = some e ∨ e ∈ l) : l.foldl lowerSequence best = some e := by
  induction l generalizing best with
  | nil => simpa using he
  | cons x l ih =>
    rw [List.forall_mem_cons] at hlow
    refine ih _ hlow.2 ?_ ?_
    · unfold lowerSequence
      split
      · simpa using hlow.1
      · next b =>
        split
        · simpa using hlow.1
        · simpa using hbest b rfl
    · rcases he with rfl | he
      · by_cases hx : x = e
        · exact .inl (by simp [lowerSequence, hx])
        · have := hlow.1 hx
          exact .inl (by simp [lowerSequence, not_lt.2 this.le])
      · rcases List.mem_cons.1 he with rfl | he
        · cases best with
          | none => exact .inl rfl
          | some b =>
            by_cases hb : b = e
            · exact .inl (by simp [lowerSequence, hb])
            · exact .inl (by simp [lowerSequence, hbest b rfl hb])
        · exact .inr he

theorem EState.issuable_iff (x : EState) : x.issuable = true ↔ x ≠ .issued := by cases x <;> simp [EState.issuable]

/-- The issuable entry of a group that has a lower sequence than every other is the one issued next. -/
theorem State.nextEntry?_eq_some {s : State} {w : WIdx} {n : Byte} {e : Entry} (he : e ∈ s.slots) (hg : e.ofGroup w n = true)
    (hi : e.state ≠ .issued)
    (hlow : ∀ y ∈ s.slots, y.ofGroup w n = true → y.state ≠ .issued → y ≠ e → e.sequence < y.sequence) :
    s.nextEntry? w n = some e := by
  have hmem : ∀ y, (y ∈ s.slots.filter fun y => y.ofGroup w n && y.state.issuable) ↔
      y ∈ s.slots ∧ y.ofGroup w n = true ∧ y.state ≠ .issued := fun y => by
    simp [List.mem_filter, EState.issuable_iff]
  refine foldl_lowerSequence e _ none (fun y hy => ?_) (by simp) (.inr ((hmem e).2 ⟨he, hg, hi⟩))
  obtain ⟨hy, hyg, hyi⟩ := (hmem y).1 hy
  exact hlow y hy hyg hyi

/-! ### The grants to the drain engine (R102, R105, R106) -/

theorem State.offers_entry {s : State} {w : WIdx} {g : Group} {e : Entry} (hg : s.oldest w = some g) (hd : g.state = .draining)
    (ho : g.outstanding < 4) (he : s.nextEntry? w g.number = some e) : s.offers w = some (.entry e) := by
  simp [State.offers, hg, hd, Config.groupCredits, ho, he]

theorem State.offers_marker {s : State} {w : WIdx} {g : Group} {m : MarkerConfig} {d : MarkerData} (hg : s.oldest w = some g)
    (hk : g.state = .marking) (ho : g.outstanding = 0) (hd : g.markerData = some d) (hm : (s.win w).marker = some m) :
    s.offers w = some .marker := by
  simp [State.offers, hg, hk, ho, hd, hm]

/-- In a well-formed staging table an entry is known by its slot. -/
theorem eq_of_slot_eq {l : List Entry} (h : slotsWf l = true) {x y : Entry} (hx : x ∈ l) (hy : y ∈ l) (hs : x.slot = y.slot) : x = y := by
  have hnodup : (l.map Entry.slot).Nodup := ((slotsWf_iff l).1 h).1.imp Nat.ne_of_lt
  exact List.inj_on_of_nodup_map hnodup hx hy hs

/-- The write of an entry, by slot, is the write of the entry itself. -/
theorem map_slot_eq {l : List Entry} (h : slotsWf l = true) {e : Entry} (he : e ∈ l) (f : Entry → Entry) :
    (l.map fun y => if y.slot = e.slot then f y else y) = l.map fun y => if y = e then f e else y := by
  refine List.map_congr_left fun y hy => ?_
  by_cases hye : y = e
  · simp [hye]
  · rw [if_neg hye, if_neg fun hs => hye (eq_of_slot_eq h hy he hs)]

/-- A grant to the drain engine, alone or when the last grant was FORWARDER, serves the window whose turn it is. -/
theorem exec_grant_turn {s : State} {c : CreditNo} {w : WIdx} (hreset : s.resetAsserted = false) (hc : s.lowestCredit c)
    (hlast : s.fwd = [] ∨ s.lastGrant = .forwarder) (hroom : s.drainHeld < 8) (hturn : s.turnChoice = some w) :
    exec .grant s = .next (s.grantDrain c) := by
  have hoffer := ((s.turnChoice_eq_some w).1 hturn).1
  exact exec_grant_drain hreset hc
    (State.winner_drain (s.drainWaiting_iff.2 ⟨⟨w, hoffer⟩, hroom⟩) (hlast.symm.imp id State.forwarderWaiting_eq_false))

/-- Settles O27: the turn, then the entry of the lowest sequence or the marker that the window offers. -/
theorem grantToDrainEngine : Obligations.GrantToDrainEngine := by
  refine ⟨fun s w => s.turnChoice_eq_some w, fun s c w g hreset hc hlast hroom hturn hg => ⟨?_, ?_⟩⟩
  · intro e he hd ho hwf heg hei hlow
    have hoffer := State.offers_entry hg hd ho (State.nextEntry?_eq_some he heg hei hlow)
    have hslots := map_slot_eq hwf he fun y => { y with state := .issued }
    rw [exec_grant_turn hreset hc hlast hroom hturn, State.grantDrain, hturn]
    simp only [hg, hoffer, State.grantEntry, hslots]
    rfl
  · intro m hm d hd hk ho
    have hoffer := State.offers_marker hg hk ho hd hm
    rw [exec_grant_turn hreset hc hlast hroom hturn, State.grantDrain, hturn]
    rw [Option.mem_def] at hm hd
    simp only [hg, hoffer, State.grantMarker, hm, hd]
    rfl

/-! ### The downstream issue (R16) -/

/-- Settles O28, by what is presented. -/
theorem issueTakesTheHead : Obligations.IssueTakesTheHead := by
  intro s
  refine ⟨fun q rest hreset hissue => ?_, fun h => ?_⟩
  · have hq : s.presented = some q := by simp [State.presented, hreset, hissue]
    rw [exec, execDownstreamIssue, State.issueOne, hq, hissue]
    rfl
  · have hnone : s.presented = none := by rcases h with h | h <;> simp [State.presented, h]
    rw [exec, execDownstreamIssue, State.issueOne, hnone]

end Sys2Proof.Machine
end

section
/-! O29, O33, O43. Downstream responses for the forwarder and for nobody (R4, R14, R17, R19, R103, R122, R134, R135), and the checks of
the management port (R19, R170, R173, R174, R185, R188). -/

namespace Sys2Proof.Machine

/-! ### Responses for the forwarder -/

/-- The response for a forwarded request: the credit freed, the record answered (R14, R17). -/
theorem exec_downResponse_forwarder {s : State} {c : CreditNo} {t : RecNo} {x : Transit} (hreset : s.resetAsserted = false)
    (hc : s.credit c = .forwarder (some t)) (hx : s.rcd t = some x) (res : Result) (data : LineData) :
    exec (.downstreamResponse c res data) s = .next ((s.setCredit c .free).setRcd t (some (x.downAnswer res data))) := by
  rw [exec, execDownstreamResponse, State.downResponse, hreset, hc]
  simp only [State.modRcd, State.rcd_setCredit, hx, Option.map_some]
  rfl

theorem Transit.downAnswer_read {x : Transit} (hp : x.path = .pass) (hk : x.kind = .read) (data : LineData) :
    x.downAnswer .done data = x.answered .done (some (restrict x.lanes data)) := by
  simp [Transit.downAnswer, hp, hk]

theorem Transit.downAnswer_write {x : Transit} (hp : x.path = .pass) (hk : x.kind = .write) (data : LineData) :
    x.downAnswer .done data = x.answered .done none := by
  simp [Transit.downAnswer, hp, hk]

theorem Transit.downAnswer_merge {x : Transit} {p : Snapshot} (hp : x.path = .merge) (hs : x.snapshot = some p) (data : LineData) :
    x.downAnswer .done data = x.answered .done (some (Snapshot.overlaid p x.lanes data)) := by
  simp [Transit.downAnswer, hp, hs]

/-- REFUSED counts as FAILED (R4). -/
theorem Transit.downAnswer_failed {res : Result} (h : res ≠ .done) (x : Transit) (data : LineData) :
    x.downAnswer res data = { x.answered .failed none with snapshot := none } := by
  cases res with
  | done => exact absurd rfl h
  | refused => rfl
  | failed => rfl

/-- Settles O29, by the record's path and kind and the result. -/
theorem forwarderAnswers : Obligations.ForwarderAnswers := by
  intro s c t x res data hreset hc hx
  have hexec := exec_downResponse_forwarder hreset hc hx res data
  refine ⟨?_, ?_, ?_, ?_⟩
  · rintro rfl hp hk
    rw [hexec, Transit.downAnswer_read hp hk]
    rfl
  · rintro rfl hp hk
    rw [hexec, Transit.downAnswer_write hp hk]
    rfl
  · rintro p rfl hp hs
    rw [hexec, Transit.downAnswer_merge hp hs]
    rfl
  · intro hres
    rw [hexec, Transit.downAnswer_failed hres]
    rfl

/-! ### Responses without a client -/

/-- Window `w` has an orphaned write while some credit serves one (R103, R122). -/
theorem State.hasOrphan_iff (s : State) (w : WIdx) : s.hasOrphan w = true ↔ ∃ c, s.credit c = .drain (.orphan w) := by
  simp only [State.hasOrphan, Credit.isOrphanOf, List.any_eq_true, beq_iff_eq, Vector.mem_toList_iff, Vector.mem_iff_getElem]
  constructor
  · rintro ⟨x, ⟨i, hi, rfl⟩, hx⟩
    exact ⟨⟨i, hi⟩, hx⟩
  · rintro ⟨c, hc⟩
    exact ⟨s.credit c, ⟨c.val, c.isLt, rfl⟩, hc⟩

theorem State.softResetCheck_off {s : State} (h : s.softReset = false) : s.softResetCheck = s := by
  simp [State.softResetCheck, h]

/-- The drain engine takes a window's oldest group that holds entries; the queue is not empty then, so no quiesce ends (R33, R103). -/
theorem State.drainTake_of_entries {s : State} {w : WIdx} {g : Group} (hg : s.oldest w = some g) (ht : s.canTake w g = true)
    (he : g.entryCount ≠ 0) : s.drainTake w = s.setOldest w g.taken := by
  obtain ⟨rest, hgroups⟩ : ∃ rest, (s.win w).groups = g :: rest := List.head?_eq_some_iff.1 hg
  have hloop : State.takeLoop (s.win w).groups.length s w = s.setOldest w g.taken := by
    rw [hgroups, List.length_cons, State.takeLoop, hg]
    simp only [ht, if_true, if_neg he]
  rw [State.drainTake, hloop, State.offlineIfEmpty, if_neg (by simp [State.setOldest])]

/-- The response for a request whose client is gone frees its credit (R17, R18). -/
theorem exec_downResponse_noClient {s : State} {c : CreditNo} (hreset : s.resetAsserted = false) (hc : s.credit c = .forwarder none)
    (res : Result) (data : LineData) : exec (.downstreamResponse c res data) s = .next (s.setCredit c .free) := by
  rw [exec, execDownstreamResponse, State.downResponse, hreset, hc]
  rfl

/-- The response for a drain write: its credit is freed, the drain engine acts on it, and the end of a soft reset is tested (R17,
R186). -/
theorem exec_downResponse_drain {s : State} {c : CreditNo} {cl : DrainClient} (hreset : s.resetAsserted = false)
    (hc : s.credit c = .drain cl) (res : Result) (data : LineData) :
    exec (.downstreamResponse c res data) s = .next ((s.setCredit c .free).drainResponse cl res).softResetCheck := by
  rw [exec, execDownstreamResponse, State.downResponse, hreset, hc]
  rfl

/-- Another credit serves an orphaned write of the window, before and after credit `c` is freed. -/
theorem State.hasOrphan_setCredit_free (s : State) (c : CreditNo) (w : WIdx) :
    (s.setCredit c .free).hasOrphan w = true ↔ ∃ d, d ≠ c ∧ s.credit d = .drain (.orphan w) := by
  rw [State.hasOrphan_iff]
  refine exists_congr fun d => ?_
  rw [State.credit_setCredit]
  by_cases h : d = c <;> simp [h]

/-- Settles O33, by the credit that the tag names. -/
theorem responsesWithoutClient : Obligations.ResponsesWithoutClient := by
  intro s c res data
  refine ⟨fun h => ?_, fun hreset hc => ?_, fun w hreset hsoft hc => ⟨fun horphan => ?_, fun g hg hlast hrel hent hfrozen => ?_⟩⟩
  · rw [exec, execDownstreamResponse, State.downResponse]
    rcases h with h | h <;> simp [h]
  · exact exec_downResponse_noClient hreset hc res data
  · rw [exec_downResponse_drain hreset hc, State.drainResponse, State.orphanResponse,
      if_pos ((s.hasOrphan_setCredit_free c w).2 horphan), State.softResetCheck_off (s := s.setCredit c .free) hsoft]
    rfl
  · have hnone : ¬(s.setCredit c .free).hasOrphan w = true := fun h => by
      obtain ⟨d, hd, hdc⟩ := (s.hasOrphan_setCredit_free c w).1 h
      exact hlast d hd hdc
    have htake : (s.setCredit c .free).canTake w g = true := by
      simp [State.canTake, hrel, hfrozen, hnone]
    have hdrain := State.drainTake_of_entries (s := s.setCredit c .free) hg htake hent
    have hcheck := State.softResetCheck_off (s := (s.setCredit c .free).setOldest w g.taken) hsoft
    rw [exec_downResponse_drain hreset hc, State.drainResponse, State.orphanResponse, if_neg hnone, hdrain, hcheck]
    rfl

/-! ### The checks of the port -/

theorem windowIndex_check {c : Instr} {b : Byte} (h : c.windowIndex? = some b) (hb : 16 ≤ b.toNat) :
    Instr.portCheck c = some .badIndex := by
  match c, h with
  | .readWindows first count, rfl => rw [Instr.portCheck, rangeCheck, if_pos hb]
  | .writeWindow _, rfl => exact windowCheck_high _ hb
  | .setOnline _, rfl => exact windowCheck_high _ hb
  | .setOfflineFinish _ _, rfl => exact windowCheck_high _ hb
  | .setOfflineDrop _ _, rfl => exact windowCheck_high _ hb
  | .seal _, rfl => exact windowCheck_high _ hb
  | .release _, rfl => exact windowCheck_high _ hb
  | .discard _, rfl => exact windowCheck_high _ hb
  | .clearFaultRetry _ _, rfl => exact windowCheck_high _ hb
  | .clearFaultAbandon _ _, rfl => exact windowCheck_high _ hb
  | .readGroups _, rfl => exact windowCheck_high _ hb
  | .readStats w zero, rfl => rw [Instr.portCheck, if_neg (by omega)]

/-- A frame that cannot be the one under way cannot be received. -/
theorem canReceive_eq_false {s : State} {bytes : List Byte} (h : s.resetAsserted = true ∨ (s.frame ≠ .command ∧ s.frame ≠ .operands) ∨
    ¬s.receivedBits <+: bytes.flatMap bitsOf) : s.canReceive bytes = false := by
  rcases h with h | ⟨hcommand, hoperands⟩ | h
  · exact canReceive_off s bytes (.inl h)
  · refine canReceive_off s bytes (.inr ?_)
    cases hf : s.frame <;> simp_all [Frame.receiving]
  · have : s.receivedBits.isPrefixOf (bytes.flatMap bitsOf) = false := by
      rw [← Bool.not_eq_true, List.isPrefixOf_iff_prefix]
      exact h
    rw [State.canReceive, this, Bool.and_false]

/-- The codes of R175, as numbers. -/
theorem knownCodes_toNat : knownCodes.map BitVec.toNat =
    [0x01, 0x10, 0x11, 0x12, 0x13, 0x20, 0x21, 0x22, 0x23, 0x24, 0x30, 0x31, 0x32, 0x40, 0x41, 0x5A] := rfl

theorem knownCodes_not_contains {code : Byte} (h : code.toNat ∉ knownCodes.map BitVec.toNat) : knownCodes.contains code = false := by
  rw [← Bool.not_eq_true, List.contains_iff_mem]
  exact fun hm => h (List.mem_map_of_mem hm)

/-- Settles O43: a frame that cannot be under way, then the checks in their order. -/
theorem portChecks : Obligations.PortChecks := by
  intro s c hc
  refine ⟨fun h => ?_, fun hport => ⟨fun hperm hsoft => ?_, fun b hb hhigh hgate => ?_, ?_⟩⟩
  · by_cases hk : ∀ code, c = .badCommand code → knownCodes.contains code = false
    · rw [exec_port_eq c hc hk, take_off _ _ _ _ _ (canReceive_eq_false h)]
    · push Not at hk
      obtain ⟨code, rfl, hk⟩ := hk
      exact exec_badCommand_known code (by simpa using hk) s
  · have hk : ∀ code, c = .badCommand code → knownCodes.contains code = false := by
      rintro code rfl
      cases hperm
    rw [exec_port_eq c hc hk, hperm]
    exact take_busy s c _ _ (canReceive_of_portTakes s _ hport) hsoft
  · have hk : ∀ code, c = .badCommand code → knownCodes.contains code = false := by
      rintro code rfl
      cases hb
    rw [exec_port_eq c hc hk, windowIndex_check hb hhigh]
    refine take_check s c _ .badIndex _ (canReceive_of_portTakes s _ hport) fun hg => hgate.resolve_left ?_
    simpa using hg
  · rintro code rfl hcode
    rw [← knownCodes_toNat] at hcode
    have hk : ∀ d, Instr.badCommand code = .badCommand d → knownCodes.contains d = false := by
      rintro _ ⟨⟩
      exact knownCodes_not_contains hcode
    rw [exec_port_eq _ hc hk]
    exact take_act s _ _ _ (canReceive_of_portTakes s _ hport) fun h => by cases h

end Sys2Proof.Machine
end

section
/-! O39. What the assertion of LINK_RST_N drops, discards, records and keeps (R18, R40, R59, R86, R125, R156, R163, R167): the freeing of a
group's slots and the discard of a group, then one window, then the windows one after another. -/

namespace Sys2Proof.Machine

/-! ### The slots of a group, freed (R56) -/

theorem State.freeGroupSlots_slots (s : State) (w : WIdx) (n : Byte) :
    (s.freeGroupSlots w n).slots = s.slots.filter fun e => !e.ofGroup w n := by
  unfold State.freeGroupSlots
  dsimp only
  split
  · next h => exact (List.filter_eq_self.2 fun e he => by simpa using List.countP_eq_zero.1 h e he).symm
  · rfl

theorem State.freeGroupSlots_area (s : State) (w : WIdx) (n : Byte) (a : AIdx) :
    (s.freeGroupSlots w n).area a =
      { s.area a with used := (s.area a).used - if a = (s.win w).area then s.slots.countP fun e => e.ofGroup w n else 0 } := by
  unfold State.freeGroupSlots
  dsimp only
  split
  · next h => simp [h]
  · rw [State.area_areaTrigger, State.lowerUsed, State.area_setArea]
    split
    · next h => subst h; rfl
    · rfl

theorem State.freeGroupSlots_windows (s : State) (w : WIdx) (n : Byte) : (s.freeGroupSlots w n).windows = s.windows := by
  unfold State.freeGroupSlots
  dsimp only
  split <;> rfl

theorem State.freeGroupSlots_transit (s : State) (w : WIdx) (n : Byte) : (s.freeGroupSlots w n).transit = s.transit := by
  unfold State.freeGroupSlots
  dsimp only
  split <;> rfl

/-- The freeing of slots marks held writes; where there is none the hold list stays empty (R148). -/
theorem State.freeGroupSlots_holds {s : State} (h : s.holds = []) (w : WIdx) (n : Byte) : (s.freeGroupSlots w n).holds = [] := by
  unfold State.freeGroupSlots
  dsimp only
  split
  · exact h
  · simp [State.areaTrigger, h]

/-! ### A discard (R83) -/

theorem State.refusePending_none {g : Group} (h : g.pendingMarker = none) (s : State) (w : WIdx) : s.refusePending w g = s := by
  rw [State.refusePending, h]

section
variable {s : State} {w : WIdx} {g : Group} {c : Cause}

theorem State.discardGroup_win (h : g.pendingMarker = none) (v : WIdx) :
    (s.discardGroup w g c).win v = if v = w then
      { s.win v with
        groups := (s.win v).groups.erase g
        stats := { (s.win v).stats with discarded := (s.win v).stats.discarded + 1 } }
    else s.win v := by
  have hfree : ∀ n v, (s.freeGroupSlots w n).win v = s.win v := fun n v => by rw [State.win, State.freeGroupSlots_windows]; rfl
  rw [State.discardGroup, State.refusePending_none h, State.win_windowTrigger, State.removeGroup, State.win_modWin, State.bumpDiscarded,
    State.win_modWin, State.win_post, hfree]
  split <;> rfl

theorem State.discardGroup_slots (h : g.pendingMarker = none) :
    (s.discardGroup w g c).slots = s.slots.filter fun e => !e.ofGroup w g.number := by
  rw [State.discardGroup, State.refusePending_none h]
  simp [State.freeGroupSlots_slots]

theorem State.discardGroup_area (h : g.pendingMarker = none) (a : AIdx) :
    (s.discardGroup w g c).area a =
      { s.area a with used := (s.area a).used - if a = (s.win w).area then s.slots.countP fun e => e.ofGroup w g.number else 0 } := by
  rw [State.discardGroup, State.refusePending_none h, State.area_windowTrigger, State.area_removeGroup, State.area_bumpDiscarded,
    State.area_post, State.freeGroupSlots_area]

theorem State.discardGroup_transit (h : g.pendingMarker = none) : (s.discardGroup w g c).transit = s.transit := by
  rw [State.discardGroup, State.refusePending_none h]
  simp [State.freeGroupSlots_transit]

theorem State.discardGroup_holds (h : g.pendingMarker = none) (hs : s.holds = []) : (s.discardGroup w g c).holds = [] := by
  rw [State.discardGroup, State.refusePending_none h]
  simp [State.windowTrigger, State.freeGroupSlots_holds hs]

end

theorem State.discardYoungestIf_none {s : State} {w : WIdx} {st : GState} (h : ∀ g ∈ s.youngest w, g.state ≠ st) (c : Cause) :
    s.discardYoungestIf w st c = s := by
  unfold State.discardYoungestIf
  split
  · next g hg => exact if_neg (h g hg)
  · rfl

theorem State.discardYoungestIf_some {s : State} {w : WIdx} {g : Group} (h : s.youngest w = some g) (c : Cause) :
    s.discardYoungestIf w g.state c = s.discardGroup w g c := by
  rw [State.discardYoungestIf, h]
  exact if_pos rfl

/-! ### The groups that a link reset ends (R86) -/

/-- The group is OPEN or BROKEN. -/
def Group.ends (g : Group) : Bool := g.state == .opened || g.state == .broken

theorem Group.ends_iff (g : Group) : g.ends = true ↔ g.state.rank = 3 := by
  unfold Group.ends
  cases g.state <;> decide

/-- The record of a group without a pending marker response (R86). -/
def Group.unmarked (g : Group) : Group := { g with pendingMarker := none }

/-- By the shape of a queue no record ends, or the youngest one alone (R61). -/
theorem Window.ends_cases {x : Window} (h : x.queueShape) :
    (∀ g ∈ x.groups, g.ends = false) ∨ ∃ init g, x.groups = init ++ [g] ∧ g.ends = true ∧ ∀ y ∈ init, y.ends = false := by
  obtain ⟨-, horder⟩ := h
  rcases List.eq_nil_or_concat x.groups with hnil | ⟨init, g, hlast⟩
  · exact .inl (by simp [hnil])
  · rw [List.concat_eq_append] at hlast
    rw [hlast, List.pairwise_append] at horder
    have hinit : ∀ y ∈ init, y.ends = false := fun y hy => by
      have hrank := (horder.2.2 y hy g (by simp)).2.1
      rw [← Bool.not_eq_true, Group.ends_iff]
      omega
    cases hg : g.ends
    · exact .inl (by simpa [hlast, or_imp, forall_and] using ⟨hinit, hg⟩)
    · exact .inr ⟨init, g, hlast, hg, hinit⟩

/-- The window's record after a link reset: the groups that end gone and counted, the others without a pending marker response. -/
def Window.afterLinkReset (x : Window) : Window :=
  { x with
    groups := (x.groups.filter fun g => !g.ends).map Group.unmarked
    stats := { x.stats with discarded := x.stats.discarded + BitVec.ofNat 32 (x.groups.countP Group.ends) } }

/-- The entry belongs to a group that a link reset ends. -/
def State.endsWith (s : State) (e : Entry) : Bool := (s.win e.window).groups.any fun g => g.ends && e.ofGroup e.window g.number

/-- What a link reset does at the windows that `p` holds of, requests apart: `t` from `s`, which holds no write any more. -/
structure LinkResetAt (p : WIdx → Bool) (s t : State) : Prop where
  holds : t.holds = []
  transit : t.transit = s.transit
  win : ∀ v, p v = true → t.win v = (s.win v).afterLinkReset
  other : ∀ v, p v = false → t.win v = s.win v
  slots : t.slots = s.slots.filter fun e => !(p e.window && s.endsWith e)
  area : ∀ a, t.area a =
    { s.area a with
      used := (s.area a).used - s.slots.countP fun e => (p e.window && s.endsWith e) && (s.win e.window).area == a }

/-! ### One window -/

/-- The window's record with no pending marker response left. -/
def State.unmark (s : State) (w : WIdx) : State := s.modWin w fun x => { x with groups := x.groups.map Group.unmarked }

theorem State.linkResetWindow_eq (s : State) (w : WIdx) :
    s.linkResetWindow w = ((s.unmark w).discardYoungestIf w .opened .linkReset).discardYoungestIf w .broken .linkReset := rfl

theorem State.youngest_unmark (s : State) (w : WIdx) : (s.unmark w).youngest w = (s.youngest w).map Group.unmarked := by
  simp [State.youngest, State.unmark]

/-- Where no group ends, only the pending marker responses go. -/
theorem State.linkResetWindow_none {s : State} {w : WIdx} (h : ∀ g ∈ (s.win w).groups, g.ends = false) :
    s.linkResetWindow w = s.unmark w := by
  have hyoung : ∀ g ∈ (s.unmark w).youngest w, g.ends = false := fun g hg => by
    rw [State.youngest_unmark] at hg
    obtain ⟨y, hy, rfl⟩ := Option.map_eq_some_iff.1 hg
    exact h y (List.mem_of_getLast? hy)
  have hne : ∀ st, (st = .opened ∨ st = .broken) → (s.unmark w).discardYoungestIf w st .linkReset = s.unmark w := fun st hst =>
    State.discardYoungestIf_none (fun g hg e => by
      have := hyoung g hg
      rcases hst with rfl | rfl <;> simp [Group.ends, e] at this) _
  rw [State.linkResetWindow_eq, hne _ (.inl rfl), hne _ (.inr rfl)]

section
variable {s : State} {w : WIdx} {init : List Group} {g : Group}

/-- The discard of the youngest group, which ends, leaves the groups before it, which do not. -/
theorem erase_unmarked (he : g.ends = true) (hinit : ∀ y ∈ init, y.ends = false) :
    ((init ++ [g]).map Group.unmarked).erase g.unmarked = init.map Group.unmarked := by
  have hnot : g.unmarked ∉ init.map Group.unmarked := fun hm => by
    obtain ⟨y, hy, hyg⟩ := List.mem_map.1 hm
    have hends : g.ends = y.ends := (congrArg Group.ends hyg.symm : g.unmarked.ends = y.unmarked.ends)
    rw [he, hinit y hy] at hends
    cases hends
  rw [List.map_append, List.erase_append_right _ hnot]
  simp

/-- Where the youngest group ends, it is discarded, and no second group ends with it. -/
theorem State.linkResetWindow_some (hg : (s.win w).groups = init ++ [g]) (he : g.ends = true) (hinit : ∀ y ∈ init, y.ends = false) :
    s.linkResetWindow w = (s.unmark w).discardGroup w g.unmarked .linkReset := by
  have hyoung : (s.unmark w).youngest w = some g.unmarked := by
    rw [State.youngest_unmark, State.youngest, hg, List.getLast?_concat]
    rfl
  have hdiscard : (s.unmark w).discardYoungestIf w g.state .linkReset = (s.unmark w).discardGroup w g.unmarked .linkReset :=
    State.discardYoungestIf_some hyoung .linkReset
  rw [State.linkResetWindow_eq]
  simp only [Group.ends, Bool.or_eq_true, beq_iff_eq] at he
  rcases he with he | he
  · rw [he] at hdiscard
    rw [hdiscard]
    refine State.discardYoungestIf_none (fun y hy => ?_) _
    have hgroups : (((s.unmark w).discardGroup w g.unmarked .linkReset).win w).groups = init.map Group.unmarked := by
      rw [State.discardGroup_win rfl, if_pos rfl, State.unmark, State.win_modWin_same, hg]
      exact erase_unmarked (by simp [Group.ends, he]) hinit
    rw [State.youngest, hgroups] at hy
    obtain ⟨q, hq, rfl⟩ := List.mem_map.1 (List.mem_of_getLast? hy)
    intro hbroken
    have := hinit q hq
    simp [Group.ends, show q.state = .broken from hbroken] at this
  · rw [he] at hdiscard
    rw [State.discardYoungestIf_none (st := .opened) (fun y hy => ?_), hdiscard]
    cases hyoung.symm.trans hy
    simp [Group.unmarked, he]

/-- The entries that go with window `w` are those of its youngest group, where that one ends. -/
theorem State.endsWith_eq (hg : (s.win w).groups = init ++ [g]) (he : g.ends = true) (hinit : ∀ y ∈ init, y.ends = false) (e : Entry) :
    (e.window == w && s.endsWith e) = e.ofGroup w g.number := by
  by_cases hw : e.window = w
  · have hnone : (init.any fun y => y.ends && e.ofGroup w y.number) = false :=
      List.any_eq_false.2 fun y hy => by simp [hinit y hy]
    rw [State.endsWith, hw, hg, List.any_append, hnone]
    simp [he]
  · rw [Entry.ofGroup, beq_false_of_ne hw, Bool.false_and, Bool.false_and]

/-- No entry goes with window `w` where no group of it ends. -/
theorem State.endsWith_eq_false (h : ∀ g ∈ (s.win w).groups, g.ends = false) (e : Entry) : (e.window == w && s.endsWith e) = false := by
  by_cases hw : e.window = w
  · rw [State.endsWith, hw]
    simpa using fun y hy he => absurd he (by simp [h y hy])
  · rw [beq_false_of_ne hw, Bool.false_and]

theorem Window.afterLinkReset_none {x : Window} (h : ∀ g ∈ x.groups, g.ends = false) :
    x.afterLinkReset = { x with groups := x.groups.map Group.unmarked } := by
  have hfilter : x.groups.filter (fun g => !g.ends) = x.groups := List.filter_eq_self.2 fun y hy => by simp [h y hy]
  have hcount : x.groups.countP Group.ends = 0 := List.countP_eq_zero.2 fun y hy => by simp [h y hy]
  simp [Window.afterLinkReset, hfilter, hcount]

theorem Window.afterLinkReset_some {x : Window} (hg : x.groups = init ++ [g]) (he : g.ends = true) (hinit : ∀ y ∈ init, y.ends = false) :
    x.afterLinkReset = { x with
      groups := (x.groups.map Group.unmarked).erase g.unmarked
      stats := { x.stats with discarded := x.stats.discarded + 1 } } := by
  have hfilter : (init ++ [g]).filter (fun g => !g.ends) = init := by
    rw [List.filter_append, List.filter_eq_self.2 fun y hy => by simp [hinit y hy]]
    simp [he]
  have hcount : (init ++ [g]).countP Group.ends = 1 := by
    rw [List.countP_append, List.countP_eq_zero.2 fun y hy => by simp [hinit y hy]]
    simp [he]
  rw [Window.afterLinkReset, hg, hfilter, hcount, erase_unmarked he hinit]
  rfl

theorem linkResetAt_none (hs : s.holds = []) (h : ∀ g ∈ (s.win w).groups, g.ends = false) :
    LinkResetAt (· == w) s (s.linkResetWindow w) := by
  have hends := State.endsWith_eq_false h
  rw [State.linkResetWindow_none h]
  refine ⟨hs, rfl, fun v hv => ?_, fun v hv => ?_, ?_, fun a => ?_⟩
  · obtain rfl : v = w := by simpa using hv
    rw [State.unmark, State.win_modWin_same, Window.afterLinkReset_none h]
  · exact State.win_modWin_other _ _ (by simpa using hv)
  · simp only [hends]
    simp [State.unmark]
  · simp only [hends]
    simp [State.unmark]

theorem linkResetAt_some (hs : s.holds = []) (hg : (s.win w).groups = init ++ [g]) (he : g.ends = true)
    (hinit : ∀ y ∈ init, y.ends = false) : LinkResetAt (· == w) s (s.linkResetWindow w) := by
  have hends := State.endsWith_eq hg he hinit
  rw [State.linkResetWindow_some hg he hinit]
  refine ⟨State.discardGroup_holds rfl hs, State.discardGroup_transit rfl, fun v hv => ?_, fun v hv => ?_, ?_, fun a => ?_⟩
  · obtain rfl : v = w := by simpa using hv
    rw [State.discardGroup_win rfl, if_pos rfl, State.unmark, State.win_modWin_same, Window.afterLinkReset_some hg he hinit]
  · have hv : v ≠ w := by simpa using hv
    rw [State.discardGroup_win rfl, if_neg hv]
    exact State.win_modWin_other _ _ hv
  · rw [State.discardGroup_slots rfl]
    simp only [hends]
    rfl
  · -- the slots freed are entries of window `w`, so they are counted at its area alone
    have hcount : (s.slots.countP fun e => e.ofGroup w g.number && (s.win e.window).area == a) =
        if a = (s.win w).area then s.slots.countP fun e => e.ofGroup w g.number else 0 := by
      have hwin : ∀ e : Entry, (e.ofGroup w g.number && (s.win e.window).area == a) =
          (e.ofGroup w g.number && (s.win w).area == a) := fun e => by
        by_cases hw : e.window = w
        · rw [hw]
        · simp only [Entry.ofGroup, beq_false_of_ne hw, Bool.false_and]
      simp only [hwin]
      split
      · next h => simp [h]
      · next h => simp [Ne.symm h]
    rw [State.discardGroup_area rfl]
    simp only [hends, hcount]
    simp [State.unmark, Group.unmarked]

/-- One window of a link reset, its queue in the shape of R61. -/
theorem linkResetAt_window (hs : s.holds = []) (h : (s.win w).queueShape) : LinkResetAt (· == w) s (s.linkResetWindow w) := by
  rcases Window.ends_cases h with h | ⟨init, g, hg, he, hinit⟩
  · exact linkResetAt_none hs h
  · exact linkResetAt_some hs hg he hinit

end

/-! ### The windows one after another -/

section
variable {p q : WIdx → Bool} {s t u : State}

theorem LinkResetAt.refl (hs : s.holds = []) : LinkResetAt (fun _ => false) s s :=
  ⟨hs, rfl, fun _ h => absurd h (by decide), fun _ _ => rfl, by simp, by simp⟩

/-- A window keeps its area. -/
theorem LinkResetAt.win_area (h : LinkResetAt p s t) (v : WIdx) : (t.win v).area = (s.win v).area := by
  cases hp : p v
  · rw [h.other v hp]
  · rw [h.win v hp]
    rfl

/-- Of the entries that the windows of `p` leave, those of the windows of `q` go that went from the start. -/
theorem LinkResetAt.endsWith (h : LinkResetAt p s t) (hpq : ∀ v, p v = true → q v = false) {e : Entry}
    (he : (p e.window && s.endsWith e) = false) : (q e.window && t.endsWith e) = ((p e.window || q e.window) && s.endsWith e) := by
  cases hp : p e.window
  · rw [State.endsWith, h.other _ hp]
    rfl
  · rw [hp, Bool.true_and] at he
    rw [hpq _ hp, he, Bool.false_and, Bool.and_false]

/-- The windows of `p`, then those of `q`, none of them twice. -/
theorem LinkResetAt.trans (h : LinkResetAt p s t) (k : LinkResetAt q t u) (hpq : ∀ v, p v = true → q v = false) :
    LinkResetAt (fun v => p v || q v) s u := by
  refine ⟨k.holds, k.transit.trans h.transit, fun v hv => ?_, fun v hv => ?_, ?_, fun a => ?_⟩
  · cases hp : p v
    · rw [k.win v (by simpa [hp] using hv), h.other v hp]
    · rw [k.other v (hpq v hp), h.win v hp]
  · rw [Bool.or_eq_false_iff] at hv
    rw [k.other v hv.2, h.other v hv.1]
  · rw [k.slots, h.slots, List.filter_filter]
    refine List.filter_congr fun e _ => ?_
    cases he : p e.window && s.endsWith e
    · rw [h.endsWith hpq he, Bool.not_false, Bool.and_true]
    · rw [Bool.and_eq_true] at he
      simp [he]
  · have hfirst : s.slots.countP (fun e => (p e.window && s.endsWith e) && (s.win e.window).area == a) =
        (s.slots.filter fun e => p e.window && s.endsWith e).countP
          (fun e => ((p e.window || q e.window) && s.endsWith e) && (s.win e.window).area == a) := by
      rw [List.countP_filter]
      refine List.countP_congr fun e _ => ?_
      cases p e.window <;> cases s.endsWith e <;> simp
    have hthen : t.slots.countP (fun e => (q e.window && t.endsWith e) && (t.win e.window).area == a) =
        (s.slots.filter fun e => !(p e.window && s.endsWith e)).countP
          (fun e => ((p e.window || q e.window) && s.endsWith e) && (s.win e.window).area == a) := by
      rw [h.slots]
      refine List.countP_congr fun e he => ?_
      have hstays : (p e.window && s.endsWith e) = false := by simpa only [Bool.not_eq_true'] using (List.mem_filter.1 he).2
      rw [h.endsWith hpq hstays, h.win_area]
    rw [k.area, h.area, hthen, hfirst, Nat.sub_sub, ← List.countP_eq_countP_filter_add]

/-- The windows of a list that names none twice, each with its queue in the shape of R61. -/
theorem linkResetAt_foldl (l : List WIdx) (hl : l.Nodup) (s : State) (hs : s.holds = []) (h : ∀ v ∈ l, (s.win v).queueShape) :
    LinkResetAt (fun v => l.contains v) s (l.foldl State.linkResetWindow s) := by
  induction l generalizing s with
  | nil => exact LinkResetAt.refl hs
  | cons w l ih =>
    obtain ⟨hw, hl⟩ := List.nodup_cons.1 hl
    have hfirst := linkResetAt_window hs (h w (by simp))
    have hrest := ih hl (s.linkResetWindow w) hfirst.holds fun v hv => by
      have hvw : v ≠ w := fun e => hw (e ▸ hv)
      rw [hfirst.other v (by simpa using hvw)]
      exact h v (by simp [hv])
    simp only [List.contains_cons, List.foldl_cons]
    exact hfirst.trans hrest fun v hv => by
      obtain rfl : v = w := by simpa using hv
      simpa using hw

end

/-! ### The order among the windows (log 8) -/

theorem nodup_eraseDups {α : Type} [BEq α] [LawfulBEq α] : (l : List α) → l.eraseDups.Nodup
  | [] => by simp
  | a :: l => by
    rw [List.eraseDups_cons, List.nodup_cons]
    exact ⟨by simp [List.mem_eraseDups], nodup_eraseDups _⟩
termination_by l => l.length
decreasing_by exact Nat.lt_succ_of_le (List.length_filter_le _ _)

theorem nodup_visitOrder (order : List WIdx) : (visitOrder order).Nodup := by
  refine List.nodup_append.2 ⟨nodup_eraseDups order, (List.nodup_finRange 16).filter _, fun v hv w hw => ?_⟩
  rintro rfl
  rw [List.mem_eraseDups] at hv
  simp [hv] at hw

theorem mem_visitOrder (order : List WIdx) (w : WIdx) : w ∈ visitOrder order := by
  by_cases h : w ∈ order <;> simp [visitOrder, h]

/-! ### The assertion of LINK_RST_N -/

/-- Events are only added, behind those that stand in the queue. -/
theorem events_closed : Closed fun s t => s.events <+: t.events where
  refl _ := List.prefix_refl _
  trans := List.IsPrefix.trans
  setWin _ _ _ _ := List.prefix_refl _
  setUsed _ _ _ := List.prefix_refl _
  modRcd _ _ _ _ _ := List.prefix_refl _
  holds _ _ := List.prefix_refl _
  offer s e := by
    unfold State.offer
    split
    · exact List.prefix_append _ _
    · exact List.prefix_refl _
  freeSlots _ _ := List.prefix_refl _
  mapSlots _ _ _ := List.prefix_refl _
  insertSlot _ _ _ _ _ := List.prefix_refl _

/-- After the drop of every request and the record of the reset, before any discard (R18, R163). -/
def State.linkDropped (s : State) : State := s.dropRequests.offer evLinkReset

theorem exec_linkReset {s : State} (hreset : s.resetAsserted = false) (hlink : s.linkAsserted = false) (order : List WIdx) :
    exec (.linkReset order) s = .next ((visitOrder order).foldl State.linkResetWindow s.linkDropped) := by
  rw [exec, execLinkReset, if_neg (by simp [hlink]), if_neg (by simp [hreset]), State.linkReset, State.linkDropped]

theorem State.win_linkDropped (s : State) (w : WIdx) : s.linkDropped.win w = s.win w := by
  simp [State.linkDropped, State.dropRequests, State.win]

theorem State.area_linkDropped (s : State) (a : AIdx) : s.linkDropped.area a = s.area a := by
  simp [State.linkDropped, State.dropRequests, State.area]

theorem State.slots_linkDropped (s : State) : s.linkDropped.slots = s.slots := by
  simp [State.linkDropped, State.dropRequests]

theorem State.holds_linkDropped (s : State) : s.linkDropped.holds = [] := by
  simp [State.linkDropped, State.dropRequests]

theorem State.rcd_linkDropped (s : State) (u : RecNo) : s.linkDropped.rcd u = none := by
  simp [State.linkDropped, State.dropRequests, State.rcd]

theorem State.endsWith_linkDropped (s : State) (e : Entry) : s.linkDropped.endsWith e = s.endsWith e := by
  rw [State.endsWith, State.win_linkDropped]
  rfl

theorem State.events_linkDropped (s : State) : s.linkDropped.events = (s.offer evLinkReset).events := by
  have h : s.dropRequests.eventUnit = s.eventUnit := by simp [State.eventUnit, State.dropRequests]
  have h := offer_eventUnit h evLinkReset
  simp only [State.eventUnit, Prod.mk.injEq] at h
  exact h.1

/-- Settles O39: what the discards leave alone by the relations that they keep, and what they do window by window. -/
theorem linkResetDropsRequests : Obligations.LinkResetDropsRequests := by
  intro s order hreset hlink htable ends freed
  obtain ⟨t, ht⟩ : ∃ t, t = (visitOrder order).foldl State.linkResetWindow s.linkDropped := ⟨_, rfl⟩
  have hshape : ∀ v ∈ visitOrder order, (s.linkDropped.win v).queueShape := fun v _ => by
    rw [State.win_linkDropped]
    obtain ⟨hshape, -⟩ := htable.1 v
    exact hshape
  have hat := linkResetAt_foldl (visitOrder order) (nodup_visitOrder order) s.linkDropped s.holds_linkDropped hshape
  rw [← ht] at hat
  have hall : ∀ v, (visitOrder order).contains v = true := fun v => List.contains_iff_mem.2 (mem_visitOrder order v)
  have hsame : s.dropRequests.sameOutsideGroups t := by
    rw [ht]
    exact same_closed.trans (same_closed.offer _ evLinkReset) (same_closed.foldl _ same_closed.linkResetWindow _ _)
  have hevents : s.linkDropped.events <+: t.events := by
    rw [ht]
    exact events_closed.foldl _ events_closed.linkResetWindow (visitOrder order) s.linkDropped
  have hlinked : t.linkAsserted = true := by simpa [State.dropRequests] using congrArg State.linkAsserted hsame
  have hcredits : t.credits = s.dropRequests.credits := by rw [hsame]
  have hfwd : t.fwd = [] := by simpa [State.dropRequests] using congrArg State.fwd hsame
  refine ⟨t, by rw [exec_linkReset hreset hlink, ht], hlinked, by simp [State.upReady, hlinked], fun u => ?_, hfwd, hat.holds,
    fun c => ?_, ?_, fun w => ?_, ?_, fun a => ?_, ?_⟩
  · rw [State.rcd, hat.transit]
    exact s.rcd_linkDropped u
  · have hc : t.credit c = (s.credit c).unclient := by rw [State.credit, hcredits]; exact s.credit_dropRequests c
    rw [hc]
    cases s.credit c <;> rfl
  · obtain ⟨discards, h⟩ := hevents
    exact ⟨discards, by rw [← h, State.events_linkDropped]; rfl⟩
  · rw [hat.win w (hall w), State.win_linkDropped]
    rfl
  · rw [hat.slots, State.slots_linkDropped]
    simp only [hall, Bool.true_and, State.endsWith_linkDropped]
    rfl
  · rw [hat.area, State.area_linkDropped, State.slots_linkDropped]
    simp only [hall, Bool.true_and, State.endsWith_linkDropped, State.win_linkDropped]
    rfl
  · refine hsame.trans ?_
    rw [hcredits]
    simp [State.dropRequests]

end Sys2Proof.Machine
end

section
/-! O8, O49. The law of the areas and the slots (R41, R45, R47): what the resets and WRITE_AREA make of it, and the checks of WRITE_AREA
(R44, R45). -/

namespace Sys2Proof.Machine

/-! ### Extents (R45) -/

theorem rangesShare_comm (b1 n1 b2 n2 : Nat) : rangesShare b1 n1 b2 n2 = rangesShare b2 n2 b1 n1 := by
  unfold rangesShare
  exact Bool.and_comm _ _

theorem State.areaOverlaps_iff (s : State) (a : AIdx) (first count : Nat) :
    s.areaOverlaps a first count = true ↔
      ∃ b : AIdx, b ≠ a ∧ 1 ≤ count ∧ 1 ≤ (s.area b).count ∧ rangesShare first count (s.area b).first (s.area b).count = true := by
  simp [State.areaOverlaps, Nat.one_le_iff_ne_zero, and_assoc]

theorem State.areaOverlaps_eq_false (s : State) (a : AIdx) (first count : Nat) :
    s.areaOverlaps a first count = false ↔
      ∀ b : AIdx, b ≠ a → 1 ≤ count → 1 ≤ (s.area b).count → rangesShare first count (s.area b).first (s.area b).count = false := by
  simp [← Bool.not_eq_true, State.areaOverlaps_iff]

theorem State.areaInUse_iff (s : State) (a : AIdx) :
    s.areaInUse a = true ↔ ∃ w : WIdx, (s.win w).area = a ∧ (s.win w).state.live = true := by
  simp only [State.areaInUse, List.any_eq_true, List.mem_finRange, true_and]
  refine exists_congr fun w => ?_
  by_cases hu : (s.win w).state = .unused <;> simp [Window.joined, WState.live, hu]

/-! ### The law of the areas and the slots -/

/-- The areas at their zero value and every slot FREE. -/
theorem slotLaw_of_zero {s : State} (ha : s.areas = State.reset.areas) (hs : s.slots = []) : s.slotLaw :=
  have harea : ∀ a, s.area a = State.reset.area a := fun a => by rw [State.area, ha]; rfl
  slotLaw_congr (fun a => by rw [harea]) (fun a => by rw [harea]) (fun h => by rw [hs]; exact h) (fun h => by rw [hs]; exact h)
    slotLaw_reset

theorem slotLaw_endSoftReset (s : State) : s.endSoftReset.slotLaw :=
  slotLaw_of_zero (by simp [State.endSoftReset, State.reset]) (by simp [State.endSoftReset])

/-- A new extent inside the table that shares no slot with another area. -/
theorem slotLaw_setArea {s : State} {a : AIdx} {x : Area} (hx : x.law)
    (hd : ∀ b : AIdx, b ≠ a → 1 ≤ x.count → 1 ≤ (s.area b).count →
      rangesShare x.first x.count (s.area b).first (s.area b).count = false) (h : s.slotLaw) : (s.setArea a x).slotLaw := by
  obtain ⟨hlaw, hdis, hslots⟩ := h
  refine ⟨fun b => ?_, fun b c hbc => ?_, hslots⟩
  · by_cases hb : b = a
    · simpa [hb] using hx
    · simpa [State.area_setArea_other _ _ hb] using hlaw b
  · by_cases hb : b = a
    · have hc : c ≠ a := fun h => hbc (hb.trans h.symm)
      simpa [hb, State.area_setArea_other _ _ hc] using hd c hc
    · by_cases hc : c = a
      · rw [rangesShare_comm]
        simpa [hc, State.area_setArea_other _ _ hb] using fun hb1 hc1 => hd b hb hc1 hb1
      · simpa [State.area_setArea_other _ _ hb, State.area_setArea_other _ _ hc] using hdis b c hbc

theorem slotLaw_writeArea {s : State} (h : s.slotLaw) (a : AIdx) (first count : Nat) : (s.writeArea a first count).state.slotLaw := by
  unfold State.writeArea
  split
  · next hok =>
    split
    · exact h
    · split
      · exact h
      · next hoverlap =>
        refine slotLaw_setArea ⟨hok.1, hok.2.2⟩ ?_ h
        exact (s.areaOverlaps_eq_false a first count).1 (Bool.not_eq_true _ ▸ hoverlap)
  · exact h

theorem writeWindow_keeps_slotLaw {s : State} (h : s.slotLaw) (w : WIdx) (op : WindowOperands) : (s.writeWindow w op).state.slotLaw := by
  unfold State.writeWindow State.writeEnables State.configureWindow
  repeat' split
  all_goals exact h

theorem popEvents_keeps_slotLaw {s : State} (h : s.slotLaw) (n : Nat) : (s.popEvents n).state.slotLaw := by
  unfold State.popEvents
  split <;> exact h

/-- Settles O8: the operations on write groups keep the law, and so do the resets and WRITE_AREA, which write extents. -/
theorem stepKeepsSlotLaw : Obligations.StepKeepsSlotLaw := by
  intro s t hs h
  refine slots_closed.step s t (fun c rest _ hexec => ?_) h hs
  refine slots_closed.exec (fun s hs => ?_) (fun _ _ => slotLaw_of_zero rfl rfl) (fun _ n hs => popEvents_keeps_slotLaw hs n)
    (fun _ w op hs => writeWindow_keeps_slotLaw hs w op) (fun _ a first count hs => slotLaw_writeArea hs a first count) c _ t hexec
  unfold State.softResetCheck
  split
  · exact slotLaw_endSoftReset s
  · exact hs

/-! ### WRITE_AREA (R44, R45) -/

/-- A WRITE_AREA of one of the eight areas places the staging table's answer. -/
theorem exec_writeArea {s : State} (hport : s.portTakes) (hsoft : s.softReset = false) (a : AIdx) (first count : BitVec 16) :
    exec (.writeArea (BitVec.ofNat 8 a.val) first count) s =
      .next ((s.writeArea a first.toNat count.toNat).state.withReply (s.writeArea a first.toNat count.toNat).reply) := by
  rw [exec, execWriteArea, areaCheck_ofNat, take_act _ _ _ _ (canReceive_of_portTakes s _ hport) fun _ => hsoft, areaOf_ofNat]

/-- Settles O49: the index, the extent, the joined windows and the overlap are tested in this order. -/
theorem writeAreaChecks : Obligations.WriteAreaChecks := by
  intro s a b first count hport hsoft
  refine ⟨fun hb => ?_, ?_⟩
  · dsimp only
    rw [exec, execWriteArea, areaCheck_high b hb, take_check _ _ _ _ _ (canReceive_of_portTakes s _ hport) fun _ => hsoft]
    rfl
  rintro rfl
  have hcmd := exec_writeArea hport hsoft a first count
  have hextent : (first.toNat < 512 ∧ count.toNat ≤ 512 ∧ first.toNat + count.toNat ≤ 512) ↔
      (first.toNat ≤ 511 ∧ count.toNat ≤ 512 ∧ first.toNat + count.toNat ≤ 512) := by omega
  have hoverlap := s.areaOverlaps_iff a first.toNat count.toNat
  simp only [rangesShare, Bool.and_eq_true, decide_eq_true_eq] at hoverlap
  dsimp only
  rw [hcmd, State.writeArea, ← s.areaInUse_iff, ← hextent]
  refine ⟨fun hbad => ?_, fun hok huse => ?_, fun hok huse hshare => ?_, fun hok huse hapart => ?_⟩
  · simp [if_neg hbad, Status.code]
  · simp [if_pos hok, huse, Status.code]
  · obtain ⟨hcount, o, hne, ho, hf, hl⟩ := hshare
    have : s.areaOverlaps a first.toNat count.toNat = true := hoverlap.2 ⟨o, hne, hcount, ho, by omega, by omega⟩
    simp [if_pos hok, huse, this, Status.code]
  · have : ¬s.areaOverlaps a first.toNat count.toNat = true := fun h =>
      let ⟨o, hne, hcount, ho, hf, hl⟩ := hoverlap.1 h
      hapart ⟨hcount, o, hne, ho, by omega, by omega⟩
    simp [if_pos hok, huse, this, Status.code]

end Sys2Proof.Machine
end

section
/-! O17 to O20. What the tests of R64 make of a write into an ONLINE window, at its arrival or re-evaluated, and what an arriving write
then leaves: a hold, a new entry, a coalesced one, a broken group (R47 to R53, R64 to R70, R144 to R146). -/

namespace Sys2Proof.Machine

/-! ### The searches of a data write -/

/-- The group holds no entry at the line (R47). -/
theorem State.entryAt?_of_newLine {s : State} {w : WIdx} {n : Byte} {l : Line}
    (h : ∀ e ∈ s.slots, e.ofGroup w n = true → e.line ≠ l) : s.entryAt? w n l = none := by
  simpa [State.entryAt?] using h

/-- The entry of a group at a line is the one found: no other bears its key (R47). -/
theorem State.entryAt?_of_mem {s : State} {e : Entry} {w : WIdx} {n : Byte} (hkeys : (s.slots.map Entry.key).Nodup) (he : e ∈ s.slots)
    (hg : e.ofGroup w n = true) : s.entryAt? w n e.line = some e := by
  refine find_unique _ _ e he (by simp [hg]) fun y hy hye => List.inj_on_of_nodup_map hkeys hy he ?_
  simp only [Entry.ofGroup, Bool.and_eq_true, beq_iff_eq] at hg hye
  obtain ⟨⟨hyw, hyn⟩, hyl⟩ := hye
  simp [Entry.key, hg, hyw, hyn, hyl]

/-- Some slot of the area will be freed by the end of a group (R50). -/
theorem State.areaWillFree_iff (s : State) (a : AIdx) :
    s.areaWillFree a = true ↔ ∃ e ∈ s.slots, (s.area a).holds e.slot = true ∧
      ∃ y ∈ (s.win e.window).groups, y.number = e.group ∧ y.state.sealedOrLater = true := by
  simp [State.areaWillFree, State.entryWaits]

/-! ### The tests of R64 -/

/-- The record of the group that a write from `src` opens in window `w` (R66). -/
def State.newGroup (s : State) (w : WIdx) (src : Source) : Group :=
  Group.opening (s.win w).nextGroup src (s.ageDeadline (s.win w))

section
variable {s : State} {x : Write} {g : Group}

theorem State.takeWrite_online (hon : (s.win x.window).state = .online) (hm : (s.win x.window).shape x.line x.lanes ≠ .mix) :
    s.takeWrite x = s.groupTests x ((s.win x.window).shape x.line x.lanes) := by
  rw [State.takeWrite, hon]
  change s.onlineWrite x = _
  unfold State.onlineWrite
  split
  · next h => exact absurd h hm
  · next h => rw [h]
  · next h => rw [h]

theorem State.groupTests_owner (hg : s.youngest x.window = some g) (ho : g.state = .opened) (hs : g.owner = x.source) (sh : Shape) :
    s.groupTests x sh = s.ownerWrite x sh g := by
  simp [State.groupTests, hg, ho, hs]

theorem State.groupTests_broken (hg : s.youngest x.window = some g) (hb : g.state = .broken) (hs : g.owner = x.source) (sh : Shape) :
    s.groupTests x sh = s.brokenWrite x sh g := by
  simp [State.groupTests, hg, hb, hs]

theorem State.groupTests_conflict (hg : s.youngest x.window = some g) (hst : g.state = .opened ∨ g.state = .broken)
    (hs : g.owner ≠ x.source) (sh : Shape) : s.groupTests x sh = s.conflictWrite x := by
  rcases hst with hst | hst <;> simp [State.groupTests, hg, hst, hs]

theorem State.groupTests_new (h : s.noOpenGroup x.window) (sh : Shape) : s.groupTests x sh = s.newGroupWrite x sh := by
  cases hg : s.youngest x.window with
  | none => simp [State.groupTests, hg]
  | some g =>
    have hlater := h g hg
    cases hst : g.state <;> simp_all [State.groupTests, GState.sealedOrLater]

/-! ### Conflicts and full queues (R67, R144) -/

variable (hon : (s.win x.window).state = .online)
include hon

section
variable (hm : (s.win x.window).shape x.line x.lanes ≠ .mix)
include hm

theorem State.takeWrite_conflict (h : ∃ g ∈ s.youngest x.window, (g.state = .opened ∨ g.state = .broken) ∧ g.owner ≠ x.source) :
    s.takeWrite x = s.conflictWrite x := by
  obtain ⟨g, hg, hst, hs⟩ := h
  rw [State.takeWrite_online hon hm, State.groupTests_conflict hg hst hs]

theorem State.takeWrite_full (h : s.noOpenGroup x.window ∧ 4 ≤ (s.win x.window).groups.length) :
    s.takeWrite x = s.queueFullWrite x := by
  rw [State.takeWrite_online hon hm, State.groupTests_new h.1, State.newGroupWrite, if_neg (by simpa [Config.groupRecords] using h.2)]

theorem State.takeWrite_conflict_hold
    (h : ∃ g ∈ s.youngest x.window, (g.state = .opened ∨ g.state = .broken) ∧ g.owner ≠ x.source)
    (hp : (s.win x.window).policy = .hold) : s.takeWrite x = s.holdWrite x .conflict := by
  rw [State.takeWrite_conflict hon hm h, State.conflictWrite, hp]

theorem State.takeWrite_conflict_refuse
    (h : ∃ g ∈ s.youngest x.window, (g.state = .opened ∨ g.state = .broken) ∧ g.owner ≠ x.source)
    (hp : (s.win x.window).policy = .refuse) : s.takeWrite x = s.refuseWrite x .conflict := by
  rw [State.takeWrite_conflict hon hm h, State.conflictWrite, hp]

theorem State.takeWrite_full_hold (h : s.noOpenGroup x.window ∧ 4 ≤ (s.win x.window).groups.length)
    (hp : (s.win x.window).policy = .hold) : s.takeWrite x = s.holdWrite x .queueFull := by
  rw [State.takeWrite_full hon hm h, State.queueFullWrite, hp]

theorem State.takeWrite_full_refuse (h : s.noOpenGroup x.window ∧ 4 ≤ (s.win x.window).groups.length)
    (hp : (s.win x.window).policy = .refuse) : s.takeWrite x = s.refuseWrite x .queueFull := by
  rw [State.takeWrite_full hon hm h, State.queueFullWrite, hp]

end

/-! ### An owner's writes (R64 tests 3 and 4) -/

theorem State.takeWrite_marker {lg : Fin 4} {c : Completion} (hsh : (s.win x.window).shape x.line x.lanes = .marker lg c)
    (hg : s.youngest x.window = some g) (hown : g.state = .opened ∧ g.owner = x.source) :
    s.takeWrite x = s.markerSeal x lg c := by
  rw [State.takeWrite_online hon (by simp [hsh]), hsh, State.groupTests_owner hg hown.1 hown.2]
  rfl

variable (hsh : (s.win x.window).shape x.line x.lanes = .data)
include hsh

theorem State.takeWrite_broken (hg : s.youngest x.window = some g) (hb : g.state = .broken) (hs : g.owner = x.source) :
    s.takeWrite x = s.refuseWrite x .broken := by
  rw [State.takeWrite_online hon (by simp [hsh]), hsh, State.groupTests_broken hg hb hs]
  rfl

theorem State.takeWrite_stage (hg : s.youngest x.window = some g) (hown : g.state = .opened ∧ g.owner = x.source) :
    s.takeWrite x = s.stage x g := by
  rw [State.takeWrite_online hon (by simp [hsh]), hsh, State.groupTests_owner hg hown.1 hown.2]
  rfl

theorem State.takeWrite_coalesce (hg : s.youngest x.window = some g) (hown : g.state = .opened ∧ g.owner = x.source) {e : Entry}
    (he : s.entryAt? x.window g.number x.line = some e) : s.takeWrite x = s.coalesce x e := by
  rw [State.takeWrite_stage hon hsh hg hown, State.stage, he]

/-- An owner's write of a new line takes the lowest-numbered FREE slot (R49). -/
theorem State.takeWrite_allocate (hg : s.youngest x.window = some g) (hown : g.state = .opened ∧ g.owner = x.source)
    (hnew : ∀ e ∈ s.slots, e.ofGroup x.window g.number = true → e.line ≠ x.line) {k : Nat}
    (hk : s.lowestFree (s.win x.window).area k) : s.takeWrite x = s.allocate x g k := by
  rw [State.takeWrite_stage hon hsh hg hown, State.stage, State.entryAt?_of_newLine hnew]
  simp only [s.freeSlot?_of_lowestFree _ k hk]

theorem State.takeWrite_exhausted (hg : s.youngest x.window = some g) (hown : g.state = .opened ∧ g.owner = x.source)
    (hnew : ∀ e ∈ s.slots, e.ofGroup x.window g.number = true → e.line ≠ x.line) (hfull : s.areaFull (s.win x.window).area) :
    s.takeWrite x = s.exhausted x := by
  rw [State.takeWrite_stage hon hsh hg hown, State.stage, State.entryAt?_of_newLine hnew]
  simp only [(s.freeSlot?_eq_none _).2 hfull]

/-- A write into an exhausted area waits where some slot of it will be freed by the end of a group (R50). -/
theorem State.takeWrite_areaWait (hg : s.youngest x.window = some g) (hown : g.state = .opened ∧ g.owner = x.source)
    (hnew : ∀ e ∈ s.slots, e.ofGroup x.window g.number = true → e.line ≠ x.line) (hfull : s.areaFull (s.win x.window).area)
    (hwill : s.areaWillFree (s.win x.window).area = true) : s.takeWrite x = s.holdWrite x .areaWait := by
  rw [State.takeWrite_exhausted hon hsh hg hown hnew hfull, State.exhausted, if_pos hwill]

/-- A write into an area held by OPEN groups only is refused, and its writer's group breaks (R50, R53). -/
theorem State.takeWrite_areaFull (hg : s.youngest x.window = some g) (hown : g.state = .opened ∧ g.owner = x.source)
    (hnew : ∀ e ∈ s.slots, e.ofGroup x.window g.number = true → e.line ≠ x.line) (hfull : s.areaFull (s.win x.window).area)
    (hwill : ¬s.areaWillFree (s.win x.window).area = true) :
    s.takeWrite x = (s.refuseWrite x .areaFull).breakOpen x.window .areaFull (some x.line) := by
  rw [State.takeWrite_exhausted hon hsh hg hown hnew hfull, State.exhausted, if_neg hwill]

/-- The group opened by a write is the one the write goes to. -/
theorem State.takeWrite_opens (hno : s.noOpenGroup x.window) (hroom : (s.win x.window).groups.length < 4) :
    s.takeWrite x = (s.openGroup x.window x.source).stage x (s.newGroup x.window x.source) := by
  have hy : (s.openGroup x.window x.source).youngest x.window = some (s.newGroup x.window x.source) := by
    simp [State.youngest, State.openGroup, State.newGroup]
  rw [State.takeWrite_online hon (by simp [hsh]), hsh, State.groupTests_new hno, State.newGroupWrite,
    if_pos (by simpa [Config.groupRecords] using hroom), State.openingWrite, hy]
  rfl

end

/-! ### The entry that a write takes (R49, R66) -/

/-- The write's entry of sequence `q` of group `n` in slot `k`, and the used count of area `a` one higher. -/
def State.slotTaken (s : State) (x : Write) (k : Nat) (n : Byte) (q : Nat) (a : AIdx) : State :=
  ({ s with
      slots := insertEntry ⟨k, x.window, n, x.line, q, restrict x.lanes x.data, x.lanes, .staged⟩ s.slots } : State).setArea a
    { s.area a with used := (s.area a).used + 1 }

/-- The window's record with one more entry in its youngest group `g`. -/
def Window.withEntry (y : Window) (g : Group) : Window :=
  { y with groups := y.groups.dropLast ++ [{ g with entryCount := g.entryCount + 1 }] }

/-- The window's record with group `g`, just opened, at the tail of its queue (R66). -/
def Window.opened (y : Window) (g : Group) : Window := { y with nextGroup := y.nextGroup + 1, groups := y.groups ++ [g] }

section
variable {s : State} {x : Write}

theorem State.slotTaken_setWin (w : WIdx) (y : Window) (k : Nat) (n : Byte) (q : Nat) (a : AIdx) :
    (s.setWin w y).slotTaken x k n q a = (s.slotTaken x k n q a).setWin w y := rfl

theorem State.allocate_eq (g : Group) (k : Nat) :
    s.allocate x g k = ((s.slotTaken x k g.number g.entryCount (s.win x.window).area).setWin x.window
      ((s.win x.window).withEntry g)).endWrite x .done := rfl

theorem State.openGroup_eq (w : WIdx) (src : Source) :
    s.openGroup w src = s.setWin w ((s.win w).opened (s.newGroup w src)) := rfl

theorem Window.withEntry_opened (y : Window) (g : Group) :
    (y.opened g).withEntry g = y.opened { g with entryCount := g.entryCount + 1 } := by
  simp [Window.withEntry, Window.opened]

theorem State.allocate_openGroup (k : Nat) :
    (s.openGroup x.window x.source).allocate x (s.newGroup x.window x.source) k =
      ((s.slotTaken x k (s.win x.window).nextGroup 0 (s.win x.window).area).setWin x.window
        ((s.win x.window).opened { s.newGroup x.window x.source with entryCount := 1 })).endWrite x .done := by
  rw [State.allocate_eq, State.openGroup_eq, State.win_setWin_same, Window.withEntry_opened, State.slotTaken_setWin,
    State.setWin_setWin]
  rfl

/-- A write that opens a group takes the lowest-numbered FREE slot for the group's first entry (R49, R66). -/
theorem State.takeWrite_opens_allocate (hon : (s.win x.window).state = .online)
    (hsh : (s.win x.window).shape x.line x.lanes = .data) (hno : s.noOpenGroup x.window)
    (hroom : (s.win x.window).groups.length < 4) (hnew : ∀ e ∈ s.slots, e.ofGroup x.window (s.win x.window).nextGroup = false) {k : Nat}
    (hk : s.lowestFree (s.win x.window).area k) :
    s.takeWrite x = ((s.slotTaken x k (s.win x.window).nextGroup 0 (s.win x.window).area).setWin x.window
      ((s.win x.window).opened { s.newGroup x.window x.source with entryCount := 1 })).endWrite x .done := by
  have hline : (s.openGroup x.window x.source).entryAt? x.window (s.newGroup x.window x.source).number x.line =
      none :=
    State.entryAt?_of_newLine (s := s.openGroup x.window x.source) fun e he hg => absurd ((hnew e he).symm.trans hg) Bool.false_ne_true
  have harea : ((s.openGroup x.window x.source).win x.window).area = (s.win x.window).area := by simp [State.openGroup]
  have hslot : (s.openGroup x.window x.source).freeSlot? (s.win x.window).area = some k := s.freeSlot?_of_lowestFree _ k hk
  rw [State.takeWrite_opens hon hsh hno hroom, State.stage, hline, harea, hslot]
  exact State.allocate_openGroup k

end

/-! ### Arriving writes -/

section
variable {s : State} {r : UpRequest} {w : WIdx}

/-- A write into an ONLINE window is taken by the tests of R64 as the record of a write on path GROUP. -/
theorem arrival_eq (h : s.arrives r w) :
    (s.win w).state = .online ∧ ∃ t, s.rcd t = none ∧ (∀ u ≠ t, ∀ x ∈ s.rcd u, ¬(x.source = r.source ∧ x.tag = r.tag)) ∧
      exec (.upstreamRequest r) s = .next ((s.intake t (groupRecord r w)).takeWrite (arrivalWrite r w)) := by
  obtain ⟨hclass, hkind, hin, hon⟩ := h
  exact ⟨hon, write_eq s r w hclass hkind hin (by rw [hon]; rfl)⟩

/-- Settles O17: each of the three reasons leads to the hold. -/
theorem writeIsHeld : Obligations.WriteIsHeld := by
  intro s r w k why harr hwhy hfree hlow
  obtain ⟨hon, t, ht, hone, hexec⟩ := arrival_eq harr
  have hheld : (s.intake t (groupRecord r w)).takeWrite (arrivalWrite r w) =
      (s.intake t (groupRecord r w)).holdWrite (arrivalWrite r w) why := by
    rcases hwhy with ⟨hpol, hm, hconf, rfl⟩ | ⟨hpol, hm, hno, hlen, rfl⟩ | ⟨hsh, ⟨g, hg, ho, hs, hnew⟩, hfull, hwill, rfl⟩
    · exact State.takeWrite_conflict_hold hon hm hconf hpol
    · exact State.takeWrite_full_hold hon hm ⟨hno, hlen⟩ hpol
    · exact State.takeWrite_areaWait hon hsh hg ⟨ho, hs⟩ hnew hfull ((State.areaWillFree_iff _ _).2 hwill)
  refine ⟨t, ht, ?_⟩
  rw [hexec, hheld, holdWrite_intake s r w t k why hone ((s.freeHold?_eq_some k).2 ⟨hfree, hlow⟩)]
  rfl

theorem restrict_restrict (lanes : Lanes) (d : LineData) : restrict lanes (restrict lanes d) = restrict lanes d := by
  refine Vector.ext fun i hi => ?_
  simp only [restrict, Vector.getElem_ofFn, Fin.getElem_fin]
  split <;> rfl

/-- The entry of an arriving write. -/
theorem slotTaken_arrival (k : Nat) (n : Byte) (q : Nat) (a : AIdx) :
    s.slotTaken (arrivalWrite r w) k n q a =
      ({ s with
        slots := insertEntry
          { slot := k, window := w, group := n, line := r.line, sequence := q, data := restrict r.lanes r.data, valid := r.lanes,
            state := .staged } s.slots } : State).setArea a { s.area a with used := (s.area a).used + 1 } := by
  simp only [State.slotTaken, arrivalWrite, restrict_restrict]

/-- The answer of an arriving write whose entry and window record are written. -/
theorem endWrite_slotTaken {t : RecNo} (h : ∀ u ≠ t, ∀ x ∈ s.rcd u, ¬(x.source = r.source ∧ x.tag = r.tag)) (k : Nat) (n : Byte)
    (q : Nat) (a : AIdx) (y : Window) :
    (((s.intake t (groupRecord r w)).slotTaken (arrivalWrite r w) k n q a).setWin w y).endWrite (arrivalWrite r w) .done =
      ((s.intake t { groupRecord r w with wait := .answer, result := some .done }).slotTaken (arrivalWrite r w) k n q a).setWin w y :=
  endWrite_intake ((s.slotTaken (arrivalWrite r w) k n q a).setWin w y) r w t .done h

/-- Settles O18: the slot is taken for the first entry of the group just opened, or for the next one of the owner's open group. -/
theorem writeTakesASlot : Obligations.WriteTakesASlot := by
  constructor
  · intro s r w k harr hsh hno hroom hk hnew
    obtain ⟨hon, t, ht, hone, hexec⟩ := arrival_eq harr
    refine ⟨t, ht, ?_⟩
    rw [hexec, State.takeWrite_opens_allocate (s := s.intake t (groupRecord r w)) (x := arrivalWrite r w) hon hsh hno hroom
      hnew hk]
    refine congrArg _ ((endWrite_slotTaken hone _ _ _ _ _).trans ?_)
    rw [slotTaken_arrival]
    rfl
  · intro s r w g k harr hsh hg ho hs hnew hk
    obtain ⟨hon, t, ht, hone, hexec⟩ := arrival_eq harr
    refine ⟨t, ht, ?_⟩
    rw [hexec, State.takeWrite_allocate (s := s.intake t (groupRecord r w)) (x := arrivalWrite r w) hon hsh hg ⟨ho, hs⟩ hnew hk]
    refine congrArg _ ((endWrite_slotTaken hone _ _ _ _ _).trans ?_)
    rw [slotTaken_arrival]
    rfl

/-- The bytes of an arriving write in its enabled lanes are those of the request. -/
theorem overlay_restrict (lanes : Lanes) (new old : LineData) : overlay lanes (restrict lanes new) old = overlay lanes new old := by
  refine Vector.ext fun i hi => ?_
  simp only [overlay, restrict, Vector.getElem_ofFn, Fin.getElem_fin]
  split <;> rfl

/-- Settles O19: the entry found at the line is the one entry of this group and line. -/
theorem ownerWriteCoalesces : Obligations.OwnerWriteCoalesces := by
  intro s r w g e harr hsh hg ho hs hlaw he heg hline
  obtain ⟨hon, t, ht, hone, hexec⟩ := arrival_eq harr
  obtain ⟨-, -, hwf, hkeys⟩ := hlaw
  have hat : s.entryAt? w g.number r.line = some e := hline ▸ State.entryAt?_of_mem hkeys he heg
  have hentry : e.coalesced (arrivalWrite r w) = { e with
      data := Vector.ofFn fun i : Fin 32 => if r.lanes.getLsbD i.val then r.data[i] else e.data[i]
      valid := e.valid ||| r.lanes } := by
    rw [Entry.coalesced, arrivalWrite, overlay_restrict]
    rfl
  refine ⟨t, ht, ?_⟩
  rw [hexec, State.takeWrite_coalesce (s := s.intake t (groupRecord r w)) (x := arrivalWrite r w) hon hsh hg ⟨ho, hs⟩ hat,
    ← hentry, ← map_slot_eq hwf he fun y => y.coalesced (arrivalWrite r w)]
  exact congrArg _ (endWrite_intake { s with
    slots := s.slots.map fun y : Entry => if y.slot = e.slot then y.coalesced (arrivalWrite r w) else y } r w t .done hone)

/-- Settles O20: the exhaustion decision, then the break after the refusal. -/
theorem areaFullBreaksTheGroup : Obligations.AreaFullBreaksTheGroup := by
  constructor
  · intro s r w g harr hsh hg ho hs hnew hfull hopen
    obtain ⟨hon, t, ht, hone, hexec⟩ := arrival_eq harr
    have hwill : ¬s.areaWillFree (s.win w).area = true := fun h => by
      obtain ⟨e, he, hin, y, hy, hn, hlater⟩ := (s.areaWillFree_iff _).1 h
      rw [hopen e he hin y hy hn] at hlater
      cases hlater
    refine ⟨t, ht, ?_⟩
    rw [hexec, State.takeWrite_areaFull (s := s.intake t (groupRecord r w)) (x := arrivalWrite r w) hon hsh hg ⟨ho, hs⟩ hnew
      hfull hwill, refuseWrite_intake s r w t _ hone]
    rfl
  · intro s r w g harr hsh hg ho hs hnew hfull hwill hnone
    obtain ⟨hon, t, ht, hone, hexec⟩ := arrival_eq harr
    have hheld : (s.intake t (groupRecord r w)).holdWrite (arrivalWrite r w) .areaWait =
        ((s.intake t (groupRecord r w)).refuseWrite (arrivalWrite r w) .holdFull).breakOpen w .holdFull (some r.line) := by
      have hnone : (s.intake t (groupRecord r w)).freeHold? = none := s.freeHold?_eq_none.2 hnone
      simp only [State.holdWrite, arrivalWrite, hnone]
    refine ⟨t, ht, ?_⟩
    rw [hexec, State.takeWrite_areaWait (s := s.intake t (groupRecord r w)) (x := arrivalWrite r w) hon hsh hg ⟨ho, hs⟩ hnew
      hfull ((s.areaWillFree_iff _).2 hwill), hheld, refuseWrite_intake s r w t _ hone]
    rfl

end

end Sys2Proof.Machine
end

section
/-! O22, O30. The break of the OPEN group (R56, R80), and DONE for an entry write that leaves the group entries or marker data (R55, R109,
R110, R148). -/

namespace Sys2Proof.Machine

/-! ### The break (R80) -/

theorem areas_eq_of_area {s t : State} (h : ∀ a, s.area a = t.area a) : s.areas = t.areas :=
  Vector.ext fun i hi => h ⟨i, hi⟩

/-- The freeing of one or more slots of a group marks the AREA_WAIT writes of the area (R56, R148). -/
theorem State.freeGroupSlots_marks (s : State) (w : WIdx) (n : Byte) :
    (s.freeGroupSlots w n).holds = s.holds.map fun h : Held =>
      if 0 < (s.slots.countP fun e => e.ofGroup w n) ∧ h.reason = .areaWait ∧ (s.win h.window).joined (s.win w).area = true then
        { h with pending := true }
      else h := by
  unfold State.freeGroupSlots
  dsimp only
  split
  · next h => simp [h]
  · next h =>
    have hpos := Nat.pos_of_ne_zero h
    simp only [hpos, true_and]
    rfl

theorem State.freeGroupSlots_eventUnit (s : State) (w : WIdx) (n : Byte) : (s.freeGroupSlots w n).eventUnit = s.eventUnit := by
  unfold State.freeGroupSlots
  dsimp only
  split <;> rfl

@[simp] theorem State.eventUnit_bumpBroken (s : State) (w : WIdx) : (s.bumpBroken w).eventUnit = s.eventUnit := rfl

/-- A post reads the event unit and the window's event enables (R160). -/
theorem post_eventUnit {s t : State} {w : WIdx} (hen : (s.win w).enables = (t.win w).enables) (h : s.eventUnit = t.eventUnit)
    (e : EventBody) : (s.post w e).eventUnit = (t.post w e).eventUnit := by
  unfold State.post
  rw [hen]
  split
  · exact offer_eventUnit h e
  · exact h

/-- A break where the youngest record is not OPEN. -/
theorem State.breakOpen_none {s : State} {w : WIdx} (h : ∀ g ∈ s.youngest w, g.state ≠ .opened) (c : Cause) (line : Option Line) :
    s.breakOpen w c line = s := by
  unfold State.breakOpen
  split
  · next g hg => exact if_neg (h g hg)
  · rfl

/-- The record of a group after its break (R80). -/
def Group.brokenDown (g : Group) : Group := { g with state := .broken, entryCount := 0, ageDeadline := none }

theorem State.breakOpen_some {s : State} {w : WIdx} {g : Group} (hg : s.youngest w = some g) (ho : g.state = .opened) (c : Cause)
    (line : Option Line) :
    s.breakOpen w c line = (((s.freeGroupSlots w g.number).setYoungest w g.brokenDown).post w (evGroupBroken w g c line)).bumpBroken w := by
  rw [State.breakOpen, hg]
  exact if_pos ho

/-- Settles O22: the slots are freed, then the record and the count change and the event is posted. -/
theorem breakOfOpenGroup : Obligations.BreakOfOpenGroup := by
  intro s w c line
  refine ⟨fun g hg ho => ?_, fun h => State.breakOpen_none h c line⟩
  have hwin : ∀ v, (s.freeGroupSlots w g.number).win v = s.win v := fun v => by
    rw [State.win, State.freeGroupSlots_windows]
    rfl
  have hbreak := State.breakOpen_some hg ho c line
  refine ⟨same_closed.breakOpen s w c line, ?_, ?_, areas_eq_of_area fun a => ?_, ?_, fun v hv => ?_, ?_, ?_⟩
  · simp [hbreak, State.freeGroupSlots_transit]
  · simp [hbreak, State.freeGroupSlots_slots]
  · simp only [hbreak, State.area_bumpBroken, State.area_post, State.area_setYoungest, State.freeGroupSlots_area, State.area_setArea]
    split
    · next h => rw [h]
    · rfl
  · simp [hbreak, State.bumpBroken, State.setYoungest, hwin, Group.brokenDown]
  · rw [hbreak, State.bumpBroken, State.win_modWin_other _ _ hv, State.win_post, State.setYoungest, State.win_modWin_other _ _ hv, hwin]
  · rw [hbreak, State.eventUnit_bumpBroken]
    have hunit : ((s.freeGroupSlots w g.number).setYoungest w g.brokenDown).eventUnit = s.eventUnit :=
      s.freeGroupSlots_eventUnit w g.number
    refine post_eventUnit ?_ hunit _
    simp [State.setYoungest, hwin]
  · rw [hbreak]
    simp [State.freeGroupSlots_marks]

/-! ### DONE for an entry write (R109, R110) -/

/-- The record of a group after DONE for one of its entries (R109). -/
def Group.ackedOnce (g : Group) : Group :=
  { g with entryCount := g.entryCount - 1, acked := g.acked + 1, outstanding := g.outstanding - 1 }

section
variable {s : State} {w : WIdx} {g : Group} {e : Entry}

@[simp] theorem State.oldest_setOldest (y : Group) : (s.setOldest w y).oldest w = some y := by
  simp [State.oldest, State.setOldest]

@[simp] theorem State.setOldest_setOldest (y z : Group) : (s.setOldest w y).setOldest w z = s.setOldest w z := by
  simp [State.setOldest, State.modWin]

/-- The removal of an entry, by slot, is the removal of the entry itself. -/
theorem filter_slot_ne {l : List Entry} (h : slotsWf l = true) (he : e ∈ l) :
    (l.filter fun y => y.slot != e.slot) = l.filter fun y => y != e := by
  refine List.filter_congr fun y hy => ?_
  by_cases hye : y = e
  · simp [hye]
  · have : y.slot ≠ e.slot := fun hs => hye (eq_of_slot_eq h hy he hs)
    rw [bne_iff_ne.2 this, bne_iff_ne.2 hye]

/-- The response for an entry write of the window's oldest group. -/
theorem State.entryResponse_eq (hg : s.oldest w = some g) (he : e ∈ s.slots) (heg : e.ofGroup w g.number = true)
    (hone : ∀ y ∈ s.slots, y.ofGroup w g.number = true → y.sequence = e.sequence → y = e) (res : Result) :
    s.entryResponse w g.number e.sequence res = s.entryAnswered w g e res := by
  have hfind : s.slots.find? (fun y => y.isClient w g.number e.sequence) = some e :=
    find_unique _ _ e he (by simp [Entry.isClient, heg]) fun y hy hc => by
      simp only [Entry.isClient, Bool.and_eq_true, beq_iff_eq] at hc
      exact hone y hy hc.1 hc.2
  simp [State.entryResponse, hg, hfind]

/-- A DRAINING group left with entries stays, and one left with none that has marker data becomes MARKING (R110). -/
theorem State.afterAck_setOldest (hd : g.state = .draining) (h : g.entryCount ≠ 0 ∨ g.markerData.isSome = true) :
    (s.setOldest w g).afterAck w = s.setOldest w { g with state := if g.entryCount = 0 then .marking else .draining } := by
  rw [State.afterAck, State.oldest_setOldest]
  by_cases hz : g.entryCount = 0
  · obtain ⟨m, hm⟩ := Option.isSome_iff_exists.1 (h.resolve_left (not_not_intro hz))
    simp [hz, hd, hm]
  · have hsame : ({ g with state := .draining } : Group) = g := by rw [← hd]
    simp [hz, hsame]

end

/-- Where some queue holds a group a soft reset does not end (R186). -/
theorem State.softResetCheck_of_group {s : State} {w : WIdx} (h : (s.win w).groups ≠ []) : s.softResetCheck = s := by
  have : s.allQueuesEmpty ≠ true := fun he => h (by simpa [State.allQueuesEmpty] using (List.all_eq_true.1 he) w (List.mem_finRange w))
  simp [State.softResetCheck, this]

/-- Settles O30: the freed slot, then what the group left behind becomes. -/
theorem entryAcknowledged : Obligations.EntryAcknowledged := by
  intro s c data w g e hreset hc hg hd hone hwf he heg hleft
  let freed : State := s.setCredit c .free
  let after : State := ({ freed with slots := s.slots.filter fun y => y != e } : State).lowerUsed (s.win w).area 1
  have hzero : g.entryCount - 1 = 0 ↔ g.entryCount = 1 := by omega
  have hack : freed.freeAcked w g e = after.setOldest w g.ackedOnce := by
    simp only [after, ← filter_slot_ne hwf he]
    rfl
  have hafter : (freed.freeAcked w g e).afterAck w =
      after.setOldest w { g.ackedOnce with state := if g.entryCount = 1 then .marking else .draining } := by
    rw [hack, State.afterAck_setOldest (g := g.ackedOnce) hd (hleft.imp (fun h => Nat.sub_ne_zero_of_lt h) And.right)]
    simp only [Group.ackedOnce, hzero]
  have hdone : freed.drainResponse (.entry w g.number e.sequence) .done = ((freed.freeAcked w g e).afterAck w).areaTrigger (s.win w).area :=
    State.entryResponse_eq (s := freed) hg he heg hone .done
  rw [exec_downResponse_drain hreset hc, hdone, hafter, State.softResetCheck_of_group (w := w)]
  · rfl
  · simp [State.setOldest]

end Sys2Proof.Machine
end

section
/-! O34. The re-evaluation pass (R149, R150): a held write taken out of the pending set, then by the tests of an arrival (R64 to R73). -/

namespace Sys2Proof.Machine

/-! ### The pass -/

theorem exec_reevaluationPass {s : State} (hreset : s.resetAsserted = false) :
    exec .reevaluationPass s = .next (((s.holds.filter fun h => h.pending).map Held.slot).foldl State.reevaluate s) := by
  rw [exec, execReevaluationPass, hreset]
  rfl

theorem State.reevaluate_none {s : State} {k : HoldNo} (h : ∀ y ∈ s.holds, y.slot ≠ k) : s.reevaluate k = s := by
  have : s.heldAt? k = none := by simpa [State.heldAt?] using h
  rw [State.reevaluate, this]

/-! ### A held write taken again -/

section
variable {s : State} {h : Held} (hmem : h ∈ s.holds) (hslots : (s.holds.map Held.slot).Nodup)
include hmem hslots

theorem State.reevaluate_eq : s.reevaluate h.slot = (s.unpend h.slot).takeWrite h.toWrite := by
  rw [State.reevaluate, s.heldAt?_of_mem h hslots hmem]

/-- A write held again keeps its slot, place and deadline, and takes the new reason (R149). -/
theorem State.unpend_holdWrite (why : HoldReason) :
    (s.unpend h.slot).holdWrite h.toWrite why =
      { s with holds := s.holds.map fun y : Held => if y.slot = h.slot then { h with pending := false, reason := why } else y } := by
  have hmap : (s.unpend h.slot).holds.map (fun y => if y.slot = h.slot then { y with reason := why } else y) =
      s.holds.map fun y => if y.slot = h.slot then { h with pending := false, reason := why } else y := by
    rw [State.unpend, List.map_map]
    refine List.map_congr_left fun y hy => ?_
    by_cases hyh : y.slot = h.slot
    · have : y = h := List.inj_on_of_nodup_map hslots hy hmem hyh
      simp [this]
    · simp [hyh]
  rw [← hmap]
  rfl

end

/-- A write that leaves the hold list leaves the pending set with it. -/
theorem State.dropHold_unpend (s : State) (k : HoldNo) : (s.unpend k).dropHold k = s.dropHold k := by
  have hfilter : (s.unpend k).holds.filter (fun y => y.slot != k) = s.holds.filter fun y => y.slot != k := by
    rw [State.unpend, List.filter_map]
    have hkept : ∀ y : Held, ((fun y : Held => y.slot != k) ∘ fun y => if y.slot = k then { y with pending := false } else y) y =
        (y.slot != k) := fun y => by by_cases hy : y.slot = k <;> simp [hy]
    rw [List.filter_congr fun y _ => hkept y]
    refine (List.map_congr_left fun y hy => ?_).trans (List.map_id _)
    have : y.slot ≠ k := by simpa using (List.mem_filter.1 hy).2
    simp [this]
  rw [State.dropHold, hfilter]
  rfl

section
variable {s : State} {h : Held} {u : RecNo} (hu : s.groupRcd? h.source h.tag = some u)
include hu

/-- The answer of a held write: it leaves the hold list, and its record is answered. -/
theorem State.unpend_endWrite (res : Result) :
    (s.unpend h.slot).endWrite h.toWrite res = (s.dropHold h.slot).answerRcd u res none := by
  have hfind : (s.dropHold h.slot).groupRcd? h.source h.tag = some u := hu
  have hend : (s.unpend h.slot).endHold h.toWrite = s.dropHold h.slot := s.dropHold_unpend h.slot
  rw [State.endWrite, hend]
  change (s.dropHold h.slot).answerWrite h.source h.tag res = _
  rw [State.answerWrite, hfind]

theorem State.unpend_refuseWrite (c : Cause) :
    (s.unpend h.slot).refuseWrite h.toWrite c =
      (((s.dropHold h.slot).answerRcd u .refused none).post h.window (evWriteRefused h.window h.source c h.line)).bumpRefused
        h.window := by
  rw [State.refuseWrite, State.unpend_endWrite hu]
  rfl

end

/-! ### A marker write of the OPEN group's owner (R70, R72, R73) -/

/-- The seal of the OPEN group in MARKER_EPOCH mode marks the window's held writes, and nothing is released (R75, R76, R148). -/
theorem State.sealOpen_afterSeal {s : State} {w : WIdx} {g : Group} (hg : s.youngest w = some g) (ho : g.state = .opened)
    (ht : (s.win w).trigger = .markerEpoch) (c : SealCause) (m : Option MarkerData) (pm : Option (Source × Tag)) :
    (s.sealOpen w c m pm).afterSeal w = (s.setYoungest w (g.sealedBy c m pm)).windowTrigger w := by
  have hsealed : s.sealOpen w c m pm = (s.setYoungest w (g.sealedBy c m pm)).windowTrigger w := by
    rw [State.sealOpen, hg]
    exact if_pos ho
  have htrigger : (((s.setYoungest w (g.sealedBy c m pm)).windowTrigger w).win w).trigger = .markerEpoch := by
    simpa [State.setYoungest] using ht
  rw [hsealed, State.afterSeal, htrigger]

/-- What the marker completion makes of the record of an owner's marker write: answered DONE at once, or left waiting for the group's end
(R72, R73). -/
def Completion.ends (c : Completion) (r : Transit) : Transit :=
  match c with
  | .early => r.answered .done none
  | .late => { r with wait := .publication }

/-- The pending marker response that a marker write leaves in its group (R72, R73). -/
def Completion.leaves (c : Completion) (h : Held) : Option (Source × Tag) :=
  match c with
  | .early => none
  | .late => some (h.source, h.tag)

/-- A held marker write seals the OPEN group of its source. -/
theorem State.unpend_markerSeal {s : State} {h : Held} {u : RecNo} {g : Group} (hu : s.groupRcd? h.source h.tag = some u)
    (hg : s.youngest h.window = some g) (ho : g.state = .opened) (ht : (s.win h.window).trigger = .markerEpoch) (lg : Fin 4)
    (c : Completion) :
    (s.unpend h.slot).markerSeal h.toWrite lg c =
      (((s.dropHold h.slot).modRcd u c.ends).setYoungest h.window
        (g.sealedBy .marker (some (markerOf lg h.data)) (c.leaves h))).windowTrigger h.window := by
  have hsealed := State.sealOpen_afterSeal (s := (s.dropHold h.slot).modRcd u c.ends) hg ho ht .marker (some (markerOf lg h.data))
    (c.leaves h)
  cases c with
  | early =>
    rw [← hsealed, State.markerSeal, State.unpend_endWrite hu]
    rfl
  | late =>
    have hfind : (s.dropHold h.slot).groupRcd? h.source h.tag = some u := hu
    have hwait : ((s.unpend h.slot).endHold h.toWrite).waitWrite h.source h.tag .publication =
        (s.dropHold h.slot).modRcd u (Completion.late).ends := by
      have hend : (s.unpend h.slot).endHold h.toWrite = s.dropHold h.slot := s.dropHold_unpend h.slot
      rw [hend, State.waitWrite, hfind]
      rfl
    rw [← hsealed, ← hwait]
    rfl

/-- Settles O34: the held write taken again meets the tests of an arrival, in the state in which it has left the pending set. -/
theorem passTakesPendingWrites : Obligations.PassTakesPendingWrites := by
  intro s hreset
  refine ⟨fun hnone => ?_, exec_reevaluationPass hreset, fun k => State.reevaluate_none, fun h hmem hslots hon => ?_⟩
  · rw [exec_reevaluationPass hreset, List.filter_eq_nil_iff.2 (by simpa using hnone)]
    rfl
  intro x sh again gone conflict full newLine owned willFree staged
  have hwill : (s.unpend h.slot).areaWillFree x.area = true ↔ willFree := State.areaWillFree_iff (s.unpend h.slot) x.area
  have hre : s.reevaluate h.slot = (s.unpend h.slot).takeWrite h.toWrite := State.reevaluate_eq hmem hslots
  have hheld := State.unpend_holdWrite hmem hslots
  rw [hre]
  refine ⟨fun hp hm hc => ?_, fun hp hm hf => ?_, fun g hg hown hsh hnew hfull hw => ?_, fun u hu => ?_⟩
  · exact hre.trans ((State.takeWrite_conflict_hold (s := s.unpend h.slot) (x := h.toWrite) hon hm hc hp).trans (hheld _))
  · exact hre.trans ((State.takeWrite_full_hold (s := s.unpend h.slot) (x := h.toWrite) hon hm hf hp).trans (hheld _))
  · exact hre.trans ((State.takeWrite_areaWait (s := s.unpend h.slot) (x := h.toWrite) hon hsh hg hown hnew hfull (hwill.2 hw)).trans
      (hheld _))
  have hrefused := State.unpend_refuseWrite hu
  intro refused
  refine ⟨fun hp hm hc => ?_, fun hp hm hf => ?_, fun g hg hb hs hsh => ?_, fun g hg hown hsh hnew hfull hw => ?_,
    fun k hk => ⟨fun g hg hown hsh hnew => ?_, fun hsh hno hroom hnew => ?_⟩, fun g hg lg c hown hsh ht => ?_⟩
  · exact (State.takeWrite_conflict_refuse (s := s.unpend h.slot) (x := h.toWrite) hon hm hc hp).trans (hrefused _)
  · exact (State.takeWrite_full_refuse (s := s.unpend h.slot) (x := h.toWrite) hon hm hf hp).trans (hrefused _)
  · exact (State.takeWrite_broken (s := s.unpend h.slot) (x := h.toWrite) hon hsh hg hb hs).trans (hrefused _)
  · rw [State.takeWrite_areaFull (s := s.unpend h.slot) (x := h.toWrite) hon hsh hg hown hnew hfull (mt hwill.1 hw), hrefused]
    rfl
  · refine (State.takeWrite_allocate (s := s.unpend h.slot) (x := h.toWrite) hon hsh hg hown hnew hk).trans ?_
    exact State.unpend_endWrite (s := (s.slotTaken h.toWrite k g.number g.entryCount x.area).setWin h.window (x.withEntry g)) hu .done
  · refine (State.takeWrite_opens_allocate (s := s.unpend h.slot) (x := h.toWrite) hon hsh hno hroom hnew hk).trans ?_
    exact State.unpend_endWrite (s := (s.slotTaken h.toWrite k x.nextGroup 0 x.area).setWin h.window
      (x.opened { s.newGroup h.window h.source with entryCount := 1 })) hu .done
  · rw [State.takeWrite_marker (s := s.unpend h.slot) (x := h.toWrite) hon hsh hg hown, State.unpend_markerSeal hu hg hown.1 ht]
    cases c <;> rfl

end Sys2Proof.Machine
end

section
/-! SUPPORT. A taking at window `w` leaves the records of every other window as they are: one lemma for each operation on the groups of
one window. -/

namespace Sys2Proof.Machine

/-- The window records of `t` are those of `s`, but for window `w`. -/
def OnlyAt (w : WIdx) (s t : State) : Prop := ∀ v : WIdx, v ≠ w → t.win v = s.win v

variable {w : WIdx} {s t u : State}

theorem OnlyAt.refl (s : State) : OnlyAt w s s := fun _ _ => rfl

theorem OnlyAt.trans (h : OnlyAt w s t) (k : OnlyAt w t u) : OnlyAt w s u := fun v hv => (k v hv).trans (h v hv)

theorem OnlyAt.of_windows (h : t.windows = s.windows) : OnlyAt w s t := fun v _ => by rw [State.win, h]; rfl

theorem OnlyAt.modWin (s : State) (f : Window → Window) : OnlyAt w s (s.modWin w f) := fun _ hv => s.win_modWin_other f hv

theorem OnlyAt.post (s : State) (v : WIdx) (e : EventBody) : OnlyAt w s (s.post v e) := .of_windows (by simp)

theorem OnlyAt.answerPending (s : State) (g : Group) (r : Result) : OnlyAt w s (s.answerPending g r) := .of_windows (by simp)

theorem OnlyAt.freeGroupSlots (s : State) (v : WIdx) (n : Byte) : OnlyAt w s (s.freeGroupSlots v n) :=
  .of_windows (s.freeGroupSlots_windows v n)

theorem OnlyAt.windowTrigger (s : State) (v : WIdx) : OnlyAt w s (s.windowTrigger v) := .of_windows rfl

/-- The freeing of slots leaves every window record as it is. -/
theorem State.win_freeGroupSlots (s : State) (w : WIdx) (n : Byte) (v : WIdx) : (s.freeGroupSlots w n).win v = s.win v := by
  rw [State.win, State.freeGroupSlots_windows]
  rfl

/-! ### Publication, taking, release -/

theorem OnlyAt.offlineIfEmpty (s : State) : OnlyAt w s (s.offlineIfEmpty w) := by
  unfold State.offlineIfEmpty
  split
  · exact (OnlyAt.modWin s _).trans (.post _ _ _)
  · exact .refl s

theorem OnlyAt.publishOldest (s : State) (g : Group) : OnlyAt w s (s.publishOldest w g) :=
  (OnlyAt.post s w _).trans ((OnlyAt.modWin _ _).trans ((OnlyAt.answerPending _ g _).trans ((OnlyAt.modWin _ _).trans
    (.windowTrigger _ w))))

theorem OnlyAt.takeLoop (n : Nat) (s : State) : OnlyAt w s (State.takeLoop n s w) := by
  induction n generalizing s with
  | zero => exact .refl s
  | succ n ih =>
    unfold State.takeLoop
    split
    · exact .refl s
    · split
      · split
        · split
          · exact .modWin s _
          · exact (OnlyAt.modWin s _).trans ((OnlyAt.publishOldest _ _).trans (ih _))
        · exact .modWin s _
      · exact .refl s

theorem OnlyAt.drainTake (s : State) : OnlyAt w s (s.drainTake w) := (OnlyAt.takeLoop _ s).trans (.offlineIfEmpty _)

theorem OnlyAt.releaseAll (s : State) (e : Option (BitVec 16)) : OnlyAt w s (s.releaseAll w e) := by
  unfold State.releaseAll
  split
  · exact (OnlyAt.modWin s _).trans (.drainTake _)
  · exact .refl s

/-! ### Seal, break, discard, age -/

theorem OnlyAt.sealOpen (s : State) (c : SealCause) (m : Option MarkerData) (pm : Option (Source × Tag)) :
    OnlyAt w s (s.sealOpen w c m pm) := by
  unfold State.sealOpen
  split
  · split
    · exact (OnlyAt.modWin s _).trans (.windowTrigger _ w)
    · exact .refl s
  · exact .refl s

theorem OnlyAt.afterSeal (s : State) : OnlyAt w s (s.afterSeal w) := by
  unfold State.afterSeal
  split
  · exact .releaseAll s none
  · exact .refl s
  · exact .refl s

theorem OnlyAt.breakOpen (s : State) (c : Cause) (l : Option Line) : OnlyAt w s (s.breakOpen w c l) := by
  unfold State.breakOpen
  split
  · split
    · exact (OnlyAt.freeGroupSlots s w _).trans ((OnlyAt.modWin _ _).trans ((OnlyAt.post _ w _).trans (.modWin _ _)))
    · exact .refl s
  · exact .refl s

theorem OnlyAt.discardGroup (s : State) (g : Group) (c : Cause) : OnlyAt w s (s.discardGroup w g c) := by
  have hpending : ∀ s : State, OnlyAt w s (s.refusePending w g) := fun s => by
    unfold State.refusePending
    split
    · exact (OnlyAt.answerPending s g _).trans (.modWin _ _)
    · exact .refl s
  exact (OnlyAt.freeGroupSlots s w _).trans ((hpending _).trans ((OnlyAt.post _ w _).trans ((OnlyAt.modWin _ _).trans
    ((OnlyAt.modWin _ _).trans (.windowTrigger _ w)))))

theorem OnlyAt.ageOut (s : State) (g : Group) : OnlyAt w s (s.ageOut w g) := by
  unfold State.ageOut
  split
  · exact (OnlyAt.sealOpen s _ _ _).trans ((OnlyAt.post _ w _).trans (.afterSeal _))
  · exact .breakOpen s _ _

theorem OnlyAt.ageExpiry (s : State) : OnlyAt w s (s.ageExpiry w) := by
  unfold State.ageExpiry
  split
  · split
    · split
      · exact .ageOut s _
      · exact .refl s
    · exact .refl s
  · exact .refl s

end Sys2Proof.Machine
end

section
/-! SUPPORT. The age deadlines (R60, R78, R180): a taking shows no deadline that has passed and none in a group that is not OPEN, if
the state before it shows none. One lemma for each operation; the law may be known of some windows alone, as within a US_TICK. -/

namespace Sys2Proof.Machine

/-! ### The deadline of one record -/

theorem Group.deadlineAhead_of_none {g : Group} {now : Tick} (h : g.ageDeadline = none) : g.deadlineAhead now = true := by
  rw [Group.deadlineAhead, h]

/-- The state and the deadline of a record decide. -/
theorem Group.deadlineAhead_congr {g y : Group} {now : Tick} (hs : y.state = g.state) (hd : y.ageDeadline = g.ageDeadline) :
    y.deadlineAhead now = g.deadlineAhead now := by
  rw [Group.deadlineAhead, Group.deadlineAhead, hs, hd]

/-- A record that is not OPEN shows no deadline. -/
theorem Group.ageDeadline_eq_none {g : Group} {now : Tick} (h : g.deadlineAhead now = true) (ho : g.state ≠ .opened) :
    g.ageDeadline = none := by
  unfold Group.deadlineAhead at h
  split at h
  · assumption
  · simp [ho] at h

/-- The deadline of a group that opens now: the age limit lies from 1 to 65,535 (R20, R60, R66). -/
theorem State.newGroup_deadlineAhead (s : State) (w : WIdx) (src : Source) : (s.newGroup w src).deadlineAhead s.timeCount = true := by
  by_cases hlimit : (s.win w).ageLimit = 0
  · exact Group.deadlineAhead_of_none (by simp [State.newGroup, Group.opening, State.ageDeadline, hlimit])
  · have hpos : (s.win w).ageLimit.toNat ≠ 0 := fun h => hlimit (BitVec.eq_of_toNat_eq h)
    have hlt : (s.win w).ageLimit.toNat < 65536 := (s.win w).ageLimit.isLt
    have hd : (s.newGroup w src).ageDeadline = some (s.timeCount + (s.win w).ageLimit.setWidth 32) := if_neg hlimit
    have hahead : (s.timeCount + (s.win w).ageLimit.setWidth 32 - s.timeCount).toNat = (s.win w).ageLimit.toNat := by
      rw [add_sub_cancel_left, BitVec.toNat_setWidth, Nat.mod_eq_of_lt (by omega)]
    rw [Group.deadlineAhead, hd]
    simp only [hahead, hlt, Nat.one_le_iff_ne_zero.2 hpos]
    rfl

/-! ### The deadlines of a state -/

/-- RESET_N is released, and no record of the windows that `p` holds of shows a deadline that has passed (R180). -/
def State.inTimeAt (p : WIdx → Prop) (s : State) : Prop :=
  s.resetAsserted = false ∧ ∀ w, p w → ∀ g ∈ (s.win w).groups, g.deadlineAhead s.timeCount = true

namespace State.inTimeAt

variable {p : WIdx → Prop} {s t : State} {w : WIdx} {g y : Group}

/-- The group queues, the time count and the level of RESET_N decide. -/
theorem congr (h : s.inTimeAt p) (hg : ∀ v, (t.win v).groups = (s.win v).groups) (hr : t.resetAsserted = s.resetAsserted)
    (ht : t.timeCount = s.timeCount) : t.inTimeAt p := by
  refine ⟨hr.trans h.1, fun v hv y hy => ?_⟩
  rw [hg v] at hy
  rw [ht]
  exact h.2 v hv y hy

theorem of_windows (h : s.inTimeAt p) (hw : t.windows = s.windows) (hr : t.resetAsserted = s.resetAsserted)
    (ht : t.timeCount = s.timeCount) : t.inTimeAt p :=
  h.congr (fun v => by rw [State.win, hw]; rfl) hr ht

theorem mono {q : WIdx → Prop} (h : s.inTimeAt p) (hq : ∀ v, q v → p v) : s.inTimeAt q := ⟨h.1, fun v hv => h.2 v (hq v hv)⟩

/-- A fold of operations that keep the deadlines keeps them. -/
theorem foldl {α : Type} {f : State → α → State} (hf : ∀ s a, s.inTimeAt p → (f s a).inTimeAt p) (l : List α) (h : s.inTimeAt p) :
    (l.foldl f s).inTimeAt p := by
  induction l generalizing s with
  | nil => exact h
  | cons a l ih => exact ih (hf s a h)

/-- Window `w`'s record takes a value whose groups show no passed deadline. -/
theorem modWin {f : Window → Window} (h : s.inTimeAt p)
    (hf : p w → ∀ y ∈ (f (s.win w)).groups, y.deadlineAhead s.timeCount = true) : (s.modWin w f).inTimeAt p := by
  refine ⟨h.1, fun v hv y hy => ?_⟩
  by_cases hvw : v = w
  · subst hvw
    rw [State.win_modWin_same] at hy
    exact hf hv y hy
  · rw [State.win_modWin_other _ _ hvw] at hy
    exact h.2 v hv y hy

/-- Window `w` keeps some of its groups, or all. -/
theorem modWin_subset {f : Window → Window} (h : s.inTimeAt p) (hf : (f (s.win w)).groups ⊆ (s.win w).groups) :
    (s.modWin w f).inTimeAt p :=
  h.modWin fun hp y hy => h.2 w hp y (hf hy)

/-- No group changes. -/
theorem modWin_groups {f : Window → Window} (h : s.inTimeAt p) (hf : (f (s.win w)).groups = (s.win w).groups) :
    (s.modWin w f).inTimeAt p :=
  h.modWin_subset (by rw [hf]; exact List.Subset.refl _)

theorem oldest (h : s.inTimeAt p) (hg : s.oldest w = some g) (hp : p w) : g.deadlineAhead s.timeCount = true :=
  h.2 w hp g (List.mem_of_head? hg)

theorem youngest (h : s.inTimeAt p) (hg : s.youngest w = some g) (hp : p w) : g.deadlineAhead s.timeCount = true :=
  h.2 w hp g (List.mem_of_getLast? hg)

theorem setOldest (h : s.inTimeAt p) (hy : p w → y.deadlineAhead s.timeCount = true) : (s.setOldest w y).inTimeAt p :=
  h.modWin fun hp z hz => by
    rcases List.mem_cons.1 hz with rfl | hz
    · exact hy hp
    · exact h.2 w hp z (List.mem_of_mem_tail hz)

theorem setYoungest (h : s.inTimeAt p) (hy : p w → y.deadlineAhead s.timeCount = true) : (s.setYoungest w y).inTimeAt p :=
  h.modWin fun hp z hz => by
    rcases List.mem_append.1 hz with hz | hz
    · exact h.2 w hp z (List.mem_of_mem_dropLast hz)
    · rw [List.mem_singleton.1 hz]
      exact hy hp

/-- The oldest group, which is not OPEN, goes into another state, or its counts change. -/
theorem setOldest_of (h : s.inTimeAt p) (hg : s.oldest w = some g) (ho : g.state ≠ .opened) (hy : y.ageDeadline = g.ageDeadline) :
    (s.setOldest w y).inTimeAt p :=
  h.setOldest fun hp => Group.deadlineAhead_of_none (hy.trans (Group.ageDeadline_eq_none (h.oldest hg hp) ho))

/-- The oldest group keeps its state and its deadline. -/
theorem setOldest_same (h : s.inTimeAt p) (hg : s.oldest w = some g) (hs : y.state = g.state := by rfl)
    (hd : y.ageDeadline = g.ageDeadline := by rfl) : (s.setOldest w y).inTimeAt p :=
  h.setOldest fun hp => (Group.deadlineAhead_congr hs hd).trans (h.oldest hg hp)

/-! ### Operations that leave the groups alone -/

theorem post (h : s.inTimeAt p) (w : WIdx) (e : EventBody) : (s.post w e).inTimeAt p := h.of_windows (by simp) (by simp) (by simp)

theorem answerPending (h : s.inTimeAt p) (g : Group) (r : Result) : (s.answerPending g r).inTimeAt p :=
  h.of_windows (by simp) (by simp) (by simp)

theorem endWrite (h : s.inTimeAt p) (x : Write) (r : Result) : (s.endWrite x r).inTimeAt p :=
  h.of_windows (by simp) (by simp) (by simp)

theorem windowTrigger (h : s.inTimeAt p) (w : WIdx) : (s.windowTrigger w).inTimeAt p := h.of_windows rfl rfl rfl

theorem bumpRefused (h : s.inTimeAt p) (w : WIdx) : (s.bumpRefused w).inTimeAt p := h.modWin_groups rfl

theorem bumpDiscarded (h : s.inTimeAt p) (w : WIdx) : (s.bumpDiscarded w).inTimeAt p := h.modWin_groups rfl

theorem freeGroupSlots (h : s.inTimeAt p) (w : WIdx) (n : Byte) : (s.freeGroupSlots w n).inTimeAt p := by
  unfold State.freeGroupSlots
  dsimp only
  split
  · exact h
  · exact h.of_windows rfl rfl rfl

theorem refuseWrite (h : s.inTimeAt p) (x : Write) (c : Cause) : (s.refuseWrite x c).inTimeAt p :=
  ((h.endWrite x .refused).post _ _).bumpRefused _

theorem refuseHeld (h : s.inTimeAt p) (w : WIdx) : (s.refuseHeld w).inTimeAt p :=
  foldl (fun _ k h => h.refuseWrite k.toWrite .windowState) _ h

theorem offlineIfEmpty (h : s.inTimeAt p) (w : WIdx) : (s.offlineIfEmpty w).inTimeAt p := by
  unfold State.offlineIfEmpty
  split
  · exact (h.modWin_groups rfl).post _ _
  · exact h

/-! ### Opening, seal, break: the OPEN group's deadline comes and goes (R66, R75, R80) -/

theorem openGroup (h : s.inTimeAt p) (w : WIdx) (src : Source) : (s.openGroup w src).inTimeAt p :=
  h.modWin fun hp y hy => by
    rcases List.mem_append.1 hy with hy | hy
    · exact h.2 w hp y hy
    · rw [List.mem_singleton.1 hy]
      exact s.newGroup_deadlineAhead w src

theorem sealOpen (h : s.inTimeAt p) (w : WIdx) (c : SealCause) (m : Option MarkerData) (pm : Option (Source × Tag)) :
    (s.sealOpen w c m pm).inTimeAt p := by
  unfold State.sealOpen
  split
  · split
    · exact (h.setYoungest fun _ => Group.deadlineAhead_of_none rfl).windowTrigger w
    · exact h
  · exact h

theorem breakOpen (h : s.inTimeAt p) (w : WIdx) (c : Cause) (l : Option Line) : (s.breakOpen w c l).inTimeAt p := by
  unfold State.breakOpen
  split
  · split
    · exact (((h.freeGroupSlots w _).setYoungest fun _ => Group.deadlineAhead_of_none rfl).post w _).modWin_groups rfl
    · exact h
  · exact h

/-! ### Publication, taking, release: RELEASED groups show none -/

theorem publishOldest (h : s.inTimeAt p) (w : WIdx) (g : Group) : (s.publishOldest w g).inTimeAt p :=
  ((((h.post w _).modWin_groups rfl).answerPending g .done).modWin_subset (List.tail_subset _)).windowTrigger w

theorem takeLoop (n : Nat) (h : s.inTimeAt p) (w : WIdx) : (State.takeLoop n s w).inTimeAt p := by
  induction n generalizing s with
  | zero => exact h
  | succ n ih =>
    unfold State.takeLoop
    split
    · exact h
    · next g hg =>
      split
      · next htake =>
        have hstate : g.state ≠ .opened := by
          intro ho
          simp [State.canTake, ho] at htake
        split
        · split
          · exact h.setOldest_of hg hstate rfl
          · exact ih ((h.setOldest_of (y := g.taken) hg hstate rfl).publishOldest w _)
        · exact h.setOldest_of hg hstate rfl
      · exact h

theorem drainTake (h : s.inTimeAt p) (w : WIdx) : (s.drainTake w).inTimeAt p := (takeLoop _ h w).offlineIfEmpty w

theorem publish (h : s.inTimeAt p) (w : WIdx) (g : Group) : (s.publish w g).inTimeAt p := (h.publishOldest w g).drainTake w

theorem releaseAll (h : s.inTimeAt p) (w : WIdx) (e : Option (BitVec 16)) : (s.releaseAll w e).inTimeAt p := by
  have hreleased : (s.releaseSealed w e).inTimeAt p := h.modWin fun hp y hy => by
    obtain ⟨g, hg, rfl⟩ := List.mem_map.1 hy
    have hahead := h.2 w hp g hg
    unfold Group.releasedAt
    split
    · next hsealed => exact Group.deadlineAhead_of_none (Group.ageDeadline_eq_none (g := g) hahead (by rw [hsealed]; decide))
    · exact hahead
  unfold State.releaseAll
  split
  · exact hreleased.drainTake w
  · exact h

theorem afterSeal (h : s.inTimeAt p) (w : WIdx) : (s.afterSeal w).inTimeAt p := by
  unfold State.afterSeal
  split
  · exact h.releaseAll w none
  · exact h
  · exact h

/-! ### Discard, abandonment, freeze, quiesce -/

theorem discardGroup (h : s.inTimeAt p) (w : WIdx) (g : Group) (c : Cause) : (s.discardGroup w g c).inTimeAt p := by
  have hpending : ((s.freeGroupSlots w g.number).refusePending w g).inTimeAt p := by
    unfold State.refusePending
    split
    · exact ((h.freeGroupSlots w _).answerPending g _).bumpRefused w
    · exact h.freeGroupSlots w _
  exact (((hpending.post w _).bumpDiscarded w).modWin_subset List.erase_subset).windowTrigger w

theorem discardUnreleased (h : s.inTimeAt p) (w : WIdx) (c : Cause) : (s.discardUnreleased w c).inTimeAt p :=
  foldl (fun _ g h => h.discardGroup w g c) _ h

theorem discardYoungestIf (h : s.inTimeAt p) (w : WIdx) (st : GState) (c : Cause) : (s.discardYoungestIf w st c).inTimeAt p := by
  unfold State.discardYoungestIf
  split
  · split
    · exact h.discardGroup w _ c
    · exact h
  · exact h

theorem abandonFaulted (h : s.inTimeAt p) (w : WIdx) : (s.abandonFaulted w).inTimeAt p := by
  unfold State.abandonFaulted
  split
  · next g _ =>
    split
    · have horphaned : ((s.freeGroupSlots w g.number).mapCredits fun c => c.orphaned w g.number).inTimeAt p :=
        (h.freeGroupSlots w g.number).of_windows (by simp) (by simp) (by simp)
      exact (((((horphaned.answerPending g .failed).post w _).bumpDiscarded w).modWin_subset (List.tail_subset _)).windowTrigger
        w).drainTake w
    · exact h
  · exact h

theorem unfreeze (h : s.inTimeAt p) (w : WIdx) : (s.modWin w Window.unfreeze).inTimeAt p :=
  h.modWin_groups (by unfold Window.unfreeze; split <;> rfl)

theorem freezeWindow (h : s.inTimeAt p) (w : WIdx) (g : Group) (l : Line) : (s.freezeWindow w g l).inTimeAt p := by
  have hfrozen : (s.modWin w Window.freeze).inTimeAt p := h.modWin_groups (by unfold Window.freeze; split <;> rfl)
  exact ((hfrozen.post w _).refuseHeld w).breakOpen w _ _

theorem quiesceDrop (h : s.inTimeAt p) (w : WIdx) : (s.quiesceDrop w).inTimeAt p :=
  (((h.modWin_groups rfl).refuseHeld w).discardUnreleased w _).offlineIfEmpty w

theorem quiesceFinish (h : s.inTimeAt p) (w : WIdx) : (s.quiesceFinish w).inTimeAt p :=
  (((((h.modWin_groups rfl).refuseHeld w).sealOpen w _ _ _).discardYoungestIf w _ _).releaseAll w _).offlineIfEmpty w

theorem softResetCheck (h : s.inTimeAt p) : s.softResetCheck.inTimeAt p := by
  unfold State.softResetCheck
  split
  · refine ⟨by simpa [State.endSoftReset] using h.1, fun v _ y hy => ?_⟩
    simp [State.endSoftReset, State.win, Window.zero] at hy
  · exact h

/-! ### A write taken by the window controller -/

theorem holdWrite (h : s.inTimeAt p) (x : Write) (r : HoldReason) : (s.holdWrite x r).inTimeAt p := by
  unfold State.holdWrite
  split
  · exact h.of_windows rfl rfl rfl
  · split
    · exact h.of_windows (by simp) (by simp) (by simp)
    · split
      · exact (h.refuseWrite x _).breakOpen _ _ _
      · exact h.refuseWrite x _
      · exact h.refuseWrite x _

theorem stage (h : s.inTimeAt p) (x : Write) (hg : s.youngest x.window = some g) : (s.stage x g).inTimeAt p := by
  unfold State.stage
  split
  · next e _ =>
    have hjoined : ({ s with slots := s.slots.map fun (y : Entry) => if y.slot = e.slot then y.coalesced x else y } : State).inTimeAt p :=
      h.of_windows rfl rfl rfl
    exact hjoined.endWrite x .done
  · split
    · next k _ =>
      have htaken : (s.slotTaken x k g.number g.entryCount (s.win x.window).area).inTimeAt p := h.of_windows rfl rfl rfl
      have hcounted := htaken.setYoungest (w := x.window) (y := { g with entryCount := g.entryCount + 1 }) fun hp =>
        (Group.deadlineAhead_congr (g := g) rfl rfl).trans (h.youngest hg hp)
      exact hcounted.endWrite x .done
    · unfold State.exhausted
      split
      · exact h.holdWrite x _
      · exact (h.refuseWrite x _).breakOpen _ _ _

theorem markerSeal (h : s.inTimeAt p) (x : Write) (lg : Fin 4) (c : Completion) : (s.markerSeal x lg c).inTimeAt p := by
  unfold State.markerSeal
  split
  · exact ((h.endWrite x _).sealOpen _ _ _ _).afterSeal _
  · have hwait : ((s.endHold x).waitWrite x.source x.tag .publication).inTimeAt p := h.of_windows (by simp) (by simp) (by simp)
    exact (hwait.sealOpen _ _ _ _).afterSeal _

theorem ownerWrite (h : s.inTimeAt p) (x : Write) (sh : Shape) (hg : s.youngest x.window = some g) : (s.ownerWrite x sh g).inTimeAt p := by
  unfold State.ownerWrite
  split
  · exact h.stage x hg
  · exact h.markerSeal x _ _
  · exact h.refuseWrite x _

theorem brokenWrite (h : s.inTimeAt p) (x : Write) (sh : Shape) (g : Group) : (s.brokenWrite x sh g).inTimeAt p := by
  unfold State.brokenWrite
  split
  · exact h.refuseWrite x _
  · exact (h.refuseWrite x _).discardGroup _ _ _
  · exact h.refuseWrite x _

theorem conflictWrite (h : s.inTimeAt p) (x : Write) : (s.conflictWrite x).inTimeAt p := by
  unfold State.conflictWrite
  split
  · exact h.refuseWrite x _
  · exact h.holdWrite x _

theorem newGroupWrite (h : s.inTimeAt p) (x : Write) (sh : Shape) : (s.newGroupWrite x sh).inTimeAt p := by
  have hopen := h.openGroup x.window x.source
  unfold State.newGroupWrite State.openingWrite State.queueFullWrite
  dsimp only
  split
  · split
    · exact hopen.ownerWrite x sh ‹_›
    · exact hopen
  · split
    · exact h.refuseWrite x _
    · exact h.holdWrite x _

theorem groupTests (h : s.inTimeAt p) (x : Write) (sh : Shape) : (s.groupTests x sh).inTimeAt p := by
  unfold State.groupTests
  split
  · exact h.newGroupWrite x sh
  · next g hg =>
    split
    · split
      · exact h.ownerWrite x sh hg
      · exact h.conflictWrite x
    · split
      · exact h.brokenWrite x sh g
      · exact h.conflictWrite x
    all_goals exact h.newGroupWrite x sh

theorem takeWrite (h : s.inTimeAt p) (x : Write) : (s.takeWrite x).inTimeAt p := by
  unfold State.takeWrite
  split
  · unfold State.onlineWrite
    split
    · exact h.refuseWrite x _
    · exact h.groupTests x _
    · exact h.groupTests x _
  all_goals exact h.refuseWrite x _

/-! ### The hold unit, the timers, the epoch unit -/

theorem pass (h : s.inTimeAt p) : s.pass.inTimeAt p := by
  refine foldl (fun u k hu => ?_) _ h
  unfold State.reevaluate
  split
  · exact takeWrite (s := u.unpend k) (hu.of_windows rfl rfl rfl) _
  · exact hu

theorem holdExpiry (h : s.inTimeAt p) (k : HoldNo) : (s.holdExpiry k).inTimeAt p := by
  have hexpire : ∀ x : Held, (s.expireHeld x).inTimeAt p := fun x => by
    have hrefused : (((s.endWrite x.toWrite .refused).post x.window (evHoldExpired x.window x.source x.line)).bumpRefused
        x.window).inTimeAt p := ((h.endWrite _ _).post _ _).bumpRefused _
    unfold State.expireHeld State.areaWaitExpired
    dsimp only
    split
    · split
      · split
        · exact hrefused.breakOpen _ _ _
        · exact hrefused
      · exact hrefused
    · exact hrefused
    · exact hrefused
  unfold State.holdExpiry
  split
  · split
    · exact hexpire _
    · exact h
  · exact h

theorem ageOut (h : s.inTimeAt p) (w : WIdx) (g : Group) : (s.ageOut w g).inTimeAt p := by
  unfold State.ageOut
  split
  · exact ((h.sealOpen w _ _ _).post w _).afterSeal w
  · exact h.breakOpen w _ _

theorem ageExpiry (h : s.inTimeAt p) (w : WIdx) : (s.ageExpiry w).inTimeAt p := by
  unfold State.ageExpiry
  split
  · split
    · split
      · exact h.ageOut w _
      · exact h
    · exact h
  · exact h

theorem epochDeliver (h : s.inTimeAt p) (w : WIdx) : (s.epochDeliver w).inTimeAt p := by
  unfold State.epochDeliver
  split
  · exact h
  · next rest _ =>
    have hdue : (s.setDue w rest).inTimeAt p := h.of_windows rfl rfl rfl
    unfold State.epochAt State.epochAct
    split
    · split
      · exact hdue
      · exact hdue.releaseAll w _
      · exact ((hdue.sealOpen w _ _ _).discardYoungestIf w _ _).releaseAll w _
    · exact hdue

theorem epochEvent (h : s.inTimeAt p) (d : EpochDelivery) : (s.epochEvent d).inTimeAt p := by
  have hsample : ∀ (u : State) (l : Bool), u.inTimeAt p → (u.epochSample l).inTimeAt p := fun u l hu => by
    unfold State.epochSample
    split <;> exact hu.of_windows rfl rfl rfl
  exact foldl (fun _ w h => h.epochDeliver w) _ (foldl hsample _ h)

/-! ### The drain engine's responses -/

/-- A drain failure: the group that fails is DRAINING or MARKING, not OPEN (R114, R115). -/
theorem drainFailure (h : s.inTimeAt p) (w : WIdx) (l : Line) (ho : ∀ g ∈ s.oldest w, g.state ≠ .opened) :
    (s.drainFailure w l).inTimeAt p := by
  unfold State.drainFailure
  split
  · exact h
  · next g hg =>
    have hfrozen := fun f => (h.setOldest_of (y := { g with state := .faulted, failedLine := some l }) hg (ho g hg) rfl).freezeWindow w f l
    dsimp only
    split
    · exact ((hfrozen _).unfreeze w).abandonFaulted w
    · exact hfrozen _

theorem entryDone (h : s.inTimeAt p) (hg : s.oldest w = some g) (e : Entry) : (s.entryDone w g e).inTimeAt p := by
  have hfreed : (s.freeAcked w g e).inTimeAt p :=
    setOldest_same (s := ({ s with slots := s.slots.filter fun y => y.slot != e.slot } : State).lowerUsed (s.win w).area 1)
      (h.of_windows rfl rfl rfl) hg
  have hafter : ((s.freeAcked w g e).afterAck w).inTimeAt p := by
    unfold State.afterAck
    split
    · exact hfreed
    · next y hy =>
      split
      · next hdrained =>
        split
        · exact hfreed.setOldest_of hy (by rw [hdrained.1]; decide) rfl
        · exact hfreed.publish w y
      · exact hfreed
  exact hafter.of_windows rfl rfl rfl

theorem entryFailed (h : s.inTimeAt p) (hg : s.oldest w = some g) (e : Entry) : (s.entryFailed w g e).inTimeAt p := by
  have hfailed : (s.failEntry w g e).inTimeAt p :=
    setOldest_same (s := { s with slots := s.slots.map fun (y : Entry) => if y.slot = e.slot then { y with state := .failed } else y })
      (h.of_windows rfl rfl rfl) hg
  unfold State.entryFailed
  dsimp only
  split
  · next hdraining =>
    refine hfailed.drainFailure w _ fun y hy => ?_
    rw [State.failEntry, State.oldest_setOldest, Option.mem_some_iff] at hy
    rw [← hy, show ({ g with outstanding := g.outstanding - 1 } : Group).state = .draining from hdraining]
    decide
  · exact hfailed

theorem entryResponse (h : s.inTimeAt p) (w : WIdx) (n : Byte) (q : Nat) (r : Result) : (s.entryResponse w n q r).inTimeAt p := by
  unfold State.entryResponse
  split
  · next hg _ =>
    split
    · cases r with
      | done => exact h.entryDone hg _
      | refused => exact h.entryFailed hg _
      | failed => exact h.entryFailed hg _
    · exact h
  · exact h

theorem markerResponse (h : s.inTimeAt p) (w : WIdx) (n : Byte) (r : Result) : (s.markerResponse w n r).inTimeAt p := by
  unfold State.markerResponse
  split
  · next g m hg _ =>
    split
    · next hmarking =>
      have hstate : g.state ≠ .opened := by rw [hmarking.1]; decide
      have hset : (s.setOldest w { g with outstanding := 0 }).inTimeAt p := h.setOldest_of hg hstate rfl
      have hfail : ∀ l, ((s.setOldest w { g with outstanding := 0 }).drainFailure w l).inTimeAt p := fun l =>
        hset.drainFailure w l fun y hy => by
          rw [State.oldest_setOldest, Option.mem_some_iff] at hy
          rw [← hy]
          exact hstate
      cases r with
      | done => exact hset.publish w _
      | refused => exact hfail _
      | failed => exact hfail _
    · exact h
  · exact h

theorem downResponse (h : s.inTimeAt p) (c : CreditNo) (r : Result) (d : LineData) : (s.downResponse c r d).inTimeAt p := by
  have hfreed : (s.setCredit c .free).inTimeAt p := h.of_windows rfl rfl rfl
  unfold State.downResponse
  split
  · exact h
  · split
    · exact h
    · exact hfreed
    · exact hfreed.of_windows rfl rfl rfl
    · next cl _ =>
      refine softResetCheck ?_
      cases cl with
      | entry w n q => exact hfreed.entryResponse w n q r
      | marker w n => exact hfreed.markerResponse w n r
      | orphan w =>
        rw [State.drainResponse, State.orphanResponse]
        split
        · exact hfreed
        · exact hfreed.drainTake w

/-! ### Requests, responses, grants -/

theorem classify (h : s.inTimeAt p) (t : RecNo) (r : UpRequest) : (s.classify t r).inTimeAt p := by
  unfold State.classify
  split
  · exact h.of_windows rfl rfl rfl
  · split
    · unfold State.windowRequest
      split
      · unfold State.takeRead
        dsimp only
        split <;> exact h.of_windows rfl rfl rfl
      · exact takeWrite (s := s.setRcd t _) (h.of_windows rfl rfl rfl) _
    · exact h.of_windows rfl rfl rfl

theorem receive (h : s.inTimeAt p) (r : UpRequest) : (s.receive r).inTimeAt p := by
  unfold State.receive State.accept
  split
  · split
    · split
      · exact h.of_windows rfl rfl rfl
      · exact classify (s := s.clearChannel) (h.of_windows rfl rfl rfl) _ r
    · exact h
  · exact h.of_windows rfl rfl rfl

theorem acceptWaiting (h : s.inTimeAt p) : s.acceptWaiting.inTimeAt p := by
  unfold State.acceptWaiting
  split
  · split
    · exact h.receive _
    · exact h
  · exact h

theorem present (h : s.inTimeAt p) (r : UpRequest) : (s.present r).inTimeAt p := by
  unfold State.present
  split
  · exact h.receive r
  · exact h.acceptWaiting.receive r

theorem grantForwarder (h : s.inTimeAt p) (c : CreditNo) : (s.grantForwarder c).inTimeAt p := by
  unfold State.grantForwarder
  split
  · exact h
  · split <;> exact h.of_windows rfl rfl rfl

theorem grantDrain (h : s.inTimeAt p) (c : CreditNo) : (s.grantDrain c).inTimeAt p := by
  unfold State.grantDrain
  split
  · exact h
  · next w _ =>
    split
    · next g e hg _ =>
      exact of_windows (setOldest_same (s := { s with
        turn := some w
        slots := s.slots.map fun (y : Entry) => if y.slot = e.slot then { y with state := .issued } else y })
        (y := g.issuedEntry e) (h.of_windows rfl rfl rfl) hg) rfl rfl rfl
    · next g hg _ =>
      unfold State.grantMarker
      split
      · exact of_windows (setOldest_same (s := { s with turn := some w }) (y := { g with outstanding := 1 })
          (h.of_windows rfl rfl rfl) hg) rfl rfl rfl
      · exact h
    · exact h

theorem grantOne (h : s.inTimeAt p) : s.grantOne.inTimeAt p := by
  unfold State.grantOne
  split
  · exact h
  · split
    · exact h.grantForwarder _
    · exact h.grantDrain _
    · exact h

/-! ### Link reset -/

theorem linkReset (h : s.inTimeAt p) (order : List WIdx) : (s.linkReset order).inTimeAt p := by
  have hdropped : (s.dropRequests.offer evLinkReset).inTimeAt p :=
    h.of_windows (by simp [State.dropRequests]) (by simp [State.dropRequests]) (by simp [State.dropRequests])
  refine foldl (fun u w hu => ?_) _ hdropped
  have hunmarked : (u.unmark w).inTimeAt p := hu.modWin fun hp y hy => by
    obtain ⟨g, hg, rfl⟩ := List.mem_map.1 hy
    exact hu.2 w hp g hg
  rw [State.linkResetWindow_eq]
  exact (hunmarked.discardYoungestIf w _ _).discardYoungestIf w _ _

/-! ### The commands of the port -/

theorem writeWindow (h : s.inTimeAt p) (w : WIdx) (op : WindowOperands) : (s.writeWindow w op).state.inTimeAt p := by
  unfold State.writeWindow State.writeEnables State.configureWindow
  split
  · split
    · split
      · exact h
      · exact h.modWin_groups rfl
    · exact h
  · split
    · exact h.modWin_groups rfl
    · split
      · exact h
      · split
        · exact h
        · exact h.modWin_groups rfl

theorem beginSoftReset (h : s.inTimeAt p) (o q : List WIdx) : (s.beginSoftReset o q).inTimeAt p := by
  have habandon : ∀ (u : State) (w : WIdx), u.inTimeAt p → (u.softAbandon w).inTimeAt p := fun u w hu => by
    unfold State.softAbandon
    split
    · exact (hu.unfreeze w).abandonFaulted w
    · exact hu
  have hquiesce : ∀ (u : State) (w : WIdx), u.inTimeAt p → (u.softQuiesce w).inTimeAt p := fun u w hu => by
    unfold State.softQuiesce
    split
    · exact hu.quiesceDrop w
    · exact hu.modWin_groups rfl
    all_goals exact hu
  exact (foldl hquiesce _ (foldl habandon _ (s := { s with softReset := true }) (h.of_windows rfl rfl rfl))).softResetCheck

theorem setOffline (h : s.inTimeAt p) (w : WIdx) (l : Bool) {q : State → State} (hq : (q s).inTimeAt p) :
    (s.setOffline w l q).state.inTimeAt p := by
  unfold State.setOffline
  split
  · split
    · exact hq
    all_goals exact h
  · exact h

theorem clearFault (h : s.inTimeAt p) (w : WIdx) (l : Bool) {act : State → State} (ha : ∀ u, u.inTimeAt p → (act u).inTimeAt p) :
    (s.clearFault w l act).state.inTimeAt p := by
  unfold State.clearFault
  split
  · split
    · exact ha _ (h.unfreeze w)
    · exact h
  · exact h

theorem retryFaulted (h : s.inTimeAt p) (w : WIdx) : (s.retryFaulted w).inTimeAt p := by
  unfold State.retryFaulted
  split
  · next g hg =>
    split
    · next hfaulted => exact h.setOldest_of hg (by rw [hfaulted]; decide) rfl
    · exact h
  · exact h

theorem portAnswer (h : s.inTimeAt p) (c : Instr) (hc : c.isPortCommand = true) : (s.portAnswer c).state.inTimeAt p := by
  match c, hc with
  | .writeWindow op, _ => exact h.writeWindow (windowOf op.index) op
  | .setOnline w, _ =>
    rw [State.portAnswer, State.setOnline]
    split
    · exact h.modWin_groups rfl
    · exact h
  | .setOfflineFinish w mode, _ =>
    rw [State.portAnswer]
    exact h.setOffline (windowOf w) _ (h.quiesceFinish (windowOf w))
  | .setOfflineDrop w mode, _ =>
    rw [State.portAnswer]
    exact h.setOffline (windowOf w) _ (h.quiesceDrop (windowOf w))
  | .seal w, _ =>
    rw [State.portAnswer, State.sealCommand]
    split
    · exact (h.sealOpen _ _ _ _).afterSeal _
    · exact h
  | .release w, _ =>
    rw [State.portAnswer, State.releaseCommand]
    split
    · exact h.releaseAll _ _
    · exact h
  | .discard w, _ =>
    rw [State.portAnswer, State.discardCommand]
    split
    · exact h.discardUnreleased _ _
    · exact h
  | .clearFaultRetry w action, _ =>
    rw [State.portAnswer]
    exact h.clearFault (windowOf w) _ fun u hu => (hu.retryFaulted (windowOf w)).drainTake (windowOf w)
  | .clearFaultAbandon w action, _ =>
    rw [State.portAnswer]
    exact h.clearFault (windowOf w) _ fun u hu => hu.abandonFaulted (windowOf w)
  | .writeArea a first count, _ =>
    rw [State.portAnswer, State.writeArea]
    split
    · split
      · exact h
      · split
        · exact h
        · exact h.of_windows rfl rfl rfl
    · exact h
  | .popEvents n, _ =>
    rw [State.portAnswer, State.popEvents]
    split
    · exact h.of_windows rfl rfl rfl
    · exact h
  | .readStats w zero, _ =>
    rw [State.portAnswer, State.readStats]
    dsimp only
    split
    · exact h.modWin_groups rfl
    · exact h
  | .softReset o q, _ => exact h.beginSoftReset o q
  | .badCommand _, _ | .identify, _ | .readWindows _ _, _ | .readGroups _, _ | .readAreas _ _, _ | .readSlots _ _, _ => exact h

theorem execPort (c : Instr) (hc : c.isPortCommand = true) (s t : State) (hexec : exec c s = .next t) (h : s.inTimeAt p) :
    t.inTimeAt p := by
  obtain rfl | ⟨bytes, rfl | rfl⟩ := exec_port_cases c hc hexec
  · exact h
  · exact h.of_windows rfl rfl rfl
  · exact (h.portAnswer c hc).of_windows rfl rfl rfl

theorem serialRun (h : s.inTimeAt p) (r : SerialRun) : (s.serialRun r).inTimeAt p := by
  have hclocks : (s.clocks r.mdi).inTimeAt p :=
    clocks_keep (R := fun s t => s.inTimeAt p → t.inTimeAt p) (fun _ => id) (fun h1 h2 => h2 ∘ h1)
      (fun _ _ _ _ _ _ h => h.of_windows rfl rfl rfl) execPort s r.mdi h
  unfold State.serialRun
  split
  · exact hclocks.of_windows rfl rfl rfl
  · exact hclocks

end State.inTimeAt

end Sys2Proof.Machine
end

section
/-! O60. Every step keeps the law of the age deadlines (R60, R78, R180): the tick, which brings every deadline one nearer and takes the
expiries it reaches; the other takings by the lemmas above; and the part while RESET_N is asserted. -/

namespace Sys2Proof.Machine

variable {s t : State} {w : WIdx} {g : Group} {d : Tick}

/-! ### A deadline reached, or not (log 16) -/

theorem State.reached_now (s : State) : s.reached s.timeCount = true := by simp [State.reached]

/-- A deadline from 1 to 2^31 ticks ahead is not reached. -/
theorem State.not_reached (hlow : 1 ≤ (d - s.timeCount).toNat) (hhigh : (d - s.timeCount).toNat ≤ 2 ^ 31) : s.reached d = false := by
  rw [State.reached, decide_eq_false_iff_not]
  bv_omega

/-- One tick nearer, a deadline that is not reached now lies ahead still. -/
theorem Group.deadlineAhead_tick {now : Tick} (h : g.deadlineAhead (now - 1) = true) (hne : g.ageDeadline ≠ some now) :
    g.deadlineAhead now = true := by
  unfold Group.deadlineAhead at h ⊢
  split
  · rfl
  · next d hd =>
    rw [hd] at h hne
    simp only [Bool.and_eq_true, decide_eq_true_eq] at h ⊢
    obtain ⟨⟨hopen, hlow⟩, hhigh⟩ := h
    have hdn : d ≠ now := fun e => hne (by rw [e])
    refine ⟨⟨hopen, ?_⟩, ?_⟩
    · bv_omega
    · bv_omega

/-! ### What the expiry of one window does (R78) -/

theorem State.ageExpiry_none (h : ∀ g ∈ s.youngest w, g.state = .opened → ∀ d ∈ g.ageDeadline, s.reached d = false) :
    s.ageExpiry w = s := by
  unfold State.ageExpiry
  split
  · next g hg =>
    split
    · next d ho hd => rw [if_neg (by simp [h g hg ho d hd])]
    · rfl
  · rfl

theorem State.ageExpiry_some (hg : s.youngest w = some g) (ho : g.state = .opened) (hd : g.ageDeadline = some d)
    (hr : s.reached d = true) : s.ageExpiry w = s.ageOut w g := by
  rw [State.ageExpiry, hg]
  simp only [ho, hd, hr, if_true]

theorem State.ageExpiry_same (s : State) (w : WIdx) : s.sameOutsideGroups (s.ageExpiry w) := by
  unfold State.ageExpiry
  split
  · split
    · split
      · exact same_closed.ageOut s _ _
      · exact same_closed.refl s
    · exact same_closed.refl s
  · exact same_closed.refl s

theorem State.ageExpiry_timeCount (s : State) (w : WIdx) : (s.ageExpiry w).timeCount = s.timeCount := by rw [s.ageExpiry_same w]

theorem State.ageExpiry_resetAsserted (s : State) (w : WIdx) : (s.ageExpiry w).resetAsserted = s.resetAsserted := by
  rw [s.ageExpiry_same w]

theorem State.sealOpen_some (hg : s.youngest w = some g) (ho : g.state = .opened) (c : SealCause) (m : Option MarkerData)
    (pm : Option (Source × Tag)) : s.sealOpen w c m pm = (s.setYoungest w (g.sealedBy c m pm)).windowTrigger w := by
  rw [State.sealOpen, hg]
  exact if_pos ho

/-! ### The tick at one window -/

/-- By the shape of a queue only the youngest record is OPEN (R61). -/
theorem Window.not_opened_of_dropLast {x : Window} (h : x.queueShape) {y : Group} (hy : y ∈ x.groups.dropLast) : y.state ≠ .opened := by
  obtain ⟨-, horder⟩ := h
  rcases List.eq_nil_or_concat x.groups with hnil | ⟨init, g, hlast⟩
  · simp [hnil] at hy
  · rw [List.concat_eq_append] at hlast
    rw [hlast, List.dropLast_concat] at hy
    rw [hlast, List.pairwise_append] at horder
    intro ho
    have hrank := (horder.2.2 y hy g (by simp)).2.1
    rw [ho] at hrank
    exact absurd hrank (by decide)

/-- What the tick finds at a window: its queue in the shape of R61, and every deadline ahead of the tick before. -/
def State.tickFinds (s : State) (w : WIdx) : Prop :=
  (s.win w).queueShape ∧ ∀ g ∈ (s.win w).groups, g.deadlineAhead (s.timeCount - 1) = true

/-- Before the youngest record there is no deadline. -/
theorem State.tickFinds.dropLast (h : s.tickFinds w) {y : Group} (hy : y ∈ (s.win w).groups.dropLast) : y.ageDeadline = none :=
  Group.ageDeadline_eq_none (h.2 y (List.mem_of_mem_dropLast hy)) (Window.not_opened_of_dropLast h.1 hy)

/-- The youngest record, written without a deadline, leaves none in the window. -/
theorem State.tickFinds.setYoungest (h : s.tickFinds w) (hr : s.resetAsserted = false) {y : Group} (hy : y.ageDeadline = none) :
    (s.setYoungest w y).inTimeAt (· = w) := by
  refine ⟨hr, ?_⟩
  rintro v rfl z hz
  rw [State.setYoungest, State.win_modWin_same] at hz
  rcases List.mem_append.1 hz with hz | hz
  · exact Group.deadlineAhead_of_none (h.dropLast hz)
  · rw [List.mem_singleton.1 hz]
    exact Group.deadlineAhead_of_none hy

/-- The expiry of the OPEN group leaves no deadline in the window. -/
theorem State.tickFinds.ageOut (h : s.tickFinds w) (hr : s.resetAsserted = false) (hg : s.youngest w = some g) (ho : g.state = .opened) :
    (s.ageOut w g).inTimeAt (· = w) := by
  unfold State.ageOut
  split
  · rw [State.sealOpen_some hg ho]
    exact (((h.setYoungest hr rfl).windowTrigger w).post w _).afterSeal w
  · have hfreed : (s.freeGroupSlots w g.number).tickFinds w := by
      have htime : (s.freeGroupSlots w g.number).timeCount = s.timeCount := by rw [same_closed.freeGroupSlots s w g.number]
      rw [State.tickFinds, State.win_freeGroupSlots, htime]
      exact h
    have hreset : (s.freeGroupSlots w g.number).resetAsserted = false := by
      rw [same_closed.freeGroupSlots s w g.number]
      exact hr
    rw [State.breakOpen_some hg ho]
    exact ((hfreed.setYoungest hreset rfl).post w _).modWin_groups rfl

/-- The tick at one window: the deadline it reaches expires, and the others stay ahead. -/
theorem State.tickFinds.ageExpiry (h : s.tickFinds w) (hr : s.resetAsserted = false) : (s.ageExpiry w).inTimeAt (· = w) := by
  by_cases hdue : ∃ g ∈ s.youngest w, g.state = .opened ∧ g.ageDeadline = some s.timeCount
  · obtain ⟨g, hg, ho, hd⟩ := hdue
    rw [State.ageExpiry_some hg ho hd s.reached_now]
    exact h.ageOut hr hg ho
  · have hahead : ∀ g ∈ (s.win w).groups, g.deadlineAhead s.timeCount = true := fun g hg => by
      refine Group.deadlineAhead_tick (h.2 g hg) fun hd => ?_
      have ho : g.state = .opened := by
        by_contra ho
        rw [Group.ageDeadline_eq_none (h.2 g hg) ho] at hd
        cases hd
      refine hdue ⟨g, ?_, ho, hd⟩
      have hne := List.ne_nil_of_mem hg
      rw [← List.dropLast_append_getLast hne, List.mem_append, List.mem_singleton] at hg
      rcases hg with hg | hg
      · exact absurd ho (Window.not_opened_of_dropLast h.1 hg)
      · rw [hg, Option.mem_def, State.youngest, List.getLast?_eq_some_getLast hne]
    have hintime : s.inTimeAt (· = w) := ⟨hr, by rintro v rfl; exact hahead⟩
    exact hintime.ageExpiry w

/-! ### The tick -/

/-- The expiries of windows that the tick has still to reach, one after another. -/
theorem State.inTimeAt.ageExpiries (l : List WIdx) (hl : l.Nodup) (h : s.inTimeAt (· ∉ l)) (hfinds : ∀ v ∈ l, s.tickFinds v) :
    (l.foldl State.ageExpiry s).inTimeAt fun _ => True := by
  induction l generalizing s with
  | nil => exact h.mono fun _ _ => List.not_mem_nil
  | cons w l ih =>
    obtain ⟨hw, hl⟩ := List.nodup_cons.1 hl
    have hthere := (hfinds w (by simp)).ageExpiry h.1
    have helse := h.ageExpiry w
    refine ih hl ⟨hthere.1, fun v hv => ?_⟩ fun v hv => ?_
    · by_cases hvw : v = w
      · exact hthere.2 v hvw
      · exact helse.2 v (by simp [hvw, hv])
    · have hvw : v ≠ w := fun e => hw (e ▸ hv)
      rw [State.tickFinds, OnlyAt.ageExpiry s v hvw, s.ageExpiry_timeCount]
      exact hfinds v (by simp [hv])

theorem State.inTimeAt.tick (h : s.inTimeAt fun _ => True) (hshape : ∀ v, (s.win v).queueShape) : s.tick.inTimeAt fun _ => True := by
  refine State.inTimeAt.ageExpiries (s := { s with timeCount := s.timeCount + 1 }) _ (List.nodup_finRange 16)
    ⟨h.1, fun v hv => absurd (List.mem_finRange v) hv⟩ fun v _ => ⟨hshape v, ?_⟩
  rw [show s.timeCount + 1 - 1 = s.timeCount from add_sub_cancel_right _ _]
  exact h.2 v trivial

/-! ### The step -/

theorem State.inTimeAt.ite {p : WIdx → Prop} {c : Prop} [Decidable c] (hs : s.inTimeAt p) (ht : t.inTimeAt p) :
    (if c then s else t).inTimeAt p := by
  split
  · exact hs
  · exact ht

/-- Every command but POWER_ON_RESET keeps the deadlines, with RESET_N released. -/
theorem State.inTimeAt.exec {c : Instr} (hc : c ≠ .powerOnReset) (h : s.inTimeAt fun _ => True) (hshape : ∀ v, (s.win v).queueShape)
    (hexec : exec c s = .next t) : t.inTimeAt fun _ => True := by
  cases hport : c.isPortCommand
  case true => exact execPort c hport s t hexec h
  cases c with
  | upstreamRequest r => cases hexec; exact h.present r
  | upstreamResponse u =>
    cases hexec
    unfold State.respond
    split
    · exact h.of_windows rfl rfl rfl
    · exact h
  | grant => cases hexec; exact h.grantOne
  | downstreamIssue =>
    cases hexec
    unfold State.issueOne
    split
    · exact h.of_windows rfl rfl rfl
    · exact h
  | downstreamResponse c res data => cases hexec; exact h.downResponse c res data
  | reevaluationPass => cases hexec; exact h.ite h.pass
  | epochEvent e => cases hexec; exact h.ite (h.epochEvent e)
  | ageExpiry w => cases hexec; exact h.ite (h.ageExpiry w)
  | holdExpiry k => cases hexec; exact h.ite (h.holdExpiry k)
  | linkReset order => cases hexec; exact h.ite (ite (h.of_windows rfl rfl rfl) (h.linkReset order))
  | linkResetRelease => cases hexec; exact h.of_windows rfl rfl rfl
  | powerOnReset => exact absurd rfl hc
  | powerOnResetRelease high =>
    cases hexec
    rw [if_neg (by simp [h.1])]
    exact h
  | transactionEndsEarly r => cases hexec; exact h.ite (h.serialRun r)
  | usTick => cases hexec; exact h.ite (h.tick hshape)
  | transactionStart => cases hexec; exact h.ite (h.of_windows rfl rfl rfl)
  | _ => cases hport

theorem State.inTimeAt.idle (h : s.inTimeAt fun _ => True) : s.idle.inTimeAt fun _ => True := by
  unfold State.idle
  split
  · exact h.epochDeliver _
  · exact h.acceptWaiting

/-! ### While RESET_N is asserted (R19) -/

theorem State.upReady_of_reset (h : s.resetAsserted = true) : s.upReady = false := by simp [State.upReady, h]

/-- The block by itself does nothing. -/
theorem State.idle_of_reset (h : s.resetAsserted = true) : s.idle = s := by
  rw [State.idle_eq_acceptWaiting (.inl h), State.acceptWaiting_idle (.inr (State.upReady_of_reset h))]

/-- No command of the port is taken. -/
theorem exec_port_of_reset {c : Instr} (hport : c.isPortCommand = true) (h : s.resetAsserted = true) : exec c s = .next s := by
  by_cases hk : ∀ code, c = .badCommand code → knownCodes.contains code = false
  · rw [exec_port_eq c hport hk, take_off _ _ _ _ _ (canReceive_off s _ (.inl h))]
  · push Not at hk
    obtain ⟨code, rfl, hk⟩ := hk
    exact exec_badCommand_known code (by simpa using hk) s

/-- No command but POWER_ON_RESET touches the window table. -/
theorem exec_windows_of_reset {c : Instr} (hc : c ≠ .powerOnReset) (h : s.resetAsserted = true) (hexec : exec c s = .next t) :
    t.windows = s.windows := by
  cases hport : c.isPortCommand
  case true =>
    rw [exec_port_of_reset hport h] at hexec
    cases hexec
    rfl
  have held : ∀ u : State, (if s.resetAsserted then s else u).windows = s.windows := fun u => by rw [if_pos h]
  cases c with
  | upstreamRequest r =>
    cases hexec
    rw [State.present, State.acceptWaiting_idle (.inr (State.upReady_of_reset h)), State.receive_not_ready (State.upReady_of_reset h),
      ite_self]
  | upstreamResponse u =>
    cases hexec
    unfold State.respond
    split <;> rfl
  | grant =>
    cases hexec
    rw [State.grantOne, if_pos h]
  | downstreamIssue =>
    cases hexec
    unfold State.issueOne
    split <;> rfl
  | downstreamResponse c res data =>
    cases hexec
    rw [State.downResponse, if_pos h]
  | linkReset order =>
    cases hexec
    rw [h]
    split <;> rfl
  | linkResetRelease => cases hexec; rfl
  | powerOnReset => exact absurd rfl hc
  | powerOnResetRelease high =>
    cases hexec
    rw [if_pos h]
  | transactionEndsEarly r =>
    cases hexec
    rw [if_pos (.inl h)]
  | reevaluationPass => cases hexec; exact held _
  | epochEvent e => cases hexec; exact held _
  | ageExpiry w => cases hexec; exact held _
  | holdExpiry k => cases hexec; exact held _
  | usTick => cases hexec; exact held _
  | transactionStart => cases hexec; exact held _
  | _ => cases hport

/-! ### The law -/

theorem deadlineLaw_of_empty (h : ∀ w, (s.win w).groups = []) : s.deadlineLaw :=
  ⟨fun _ => h, fun w g hg => absurd hg (by simp [h w])⟩

theorem deadlineLaw_of_inTime (h : s.inTimeAt fun _ => True) : s.deadlineLaw :=
  ⟨fun hr => absurd (h.1.symm.trans hr) Bool.false_ne_true, fun w => h.2 w trivial⟩

theorem groups_powerOn (s : State) (w : WIdx) : (s.powerOn.win w).groups = [] := by
  have hwin : s.powerOn.win w = State.reset.win w := rfl
  rw [hwin, State.win_reset]
  rfl

/-- A command keeps the law of the age deadlines. -/
theorem deadlineLaw_exec {c : Instr} (hlaw : s.deadlineLaw) (hshape : ∀ v, (s.win v).queueShape) (hexec : exec c s = .next t) :
    t.deadlineLaw := by
  by_cases hc : c = .powerOnReset
  · subst hc
    cases hexec
    exact deadlineLaw_of_empty (groups_powerOn s)
  · obtain ⟨hempty, hahead⟩ := hlaw
    cases hr : s.resetAsserted
    · have hintime : s.inTimeAt fun _ => True := ⟨hr, fun v _ => hahead v⟩
      exact deadlineLaw_of_inTime (hintime.exec hc hshape hexec)
    · refine deadlineLaw_of_empty fun v => ?_
      rw [State.win, exec_windows_of_reset hc hr hexec]
      exact hempty hr v

/-- Settles O60, by the level of RESET_N: released, every taking keeps the deadlines; asserted, no queue holds a group. -/
theorem stepKeepsDeadlineLaw : Obligations.StepKeepsDeadlineLaw := by
  intro s t hlaw htable h
  obtain ⟨hwindows, -⟩ := htable
  have hshape : ∀ v, (s.win v).queueShape := fun v => (hwindows v).1
  unfold step at h
  split at h
  · next c rest _ => exact deadlineLaw_exec (s := { s with pending := rest }) hlaw hshape h
  · cases h
    cases hr : s.resetAsserted
    · have hintime : s.inTimeAt fun _ => True := ⟨hr, fun v _ => hlaw.2 v⟩
      exact deadlineLaw_of_inTime hintime.idle
    · rw [State.idle_of_reset hr]
      exact hlaw

end Sys2Proof.Machine
end

section
/-! O36, O37. The µs tick and the age expiry (R76, R78, R151, R180, R182). -/

namespace Sys2Proof.Machine

variable {s t : State} {v w : WIdx} {g : Group}

/-! ### Deadlines that a tick does not reach (log 16) -/

/-- No age deadline of window `w` is reached. -/
def State.noneDue (s : State) (w : WIdx) : Prop :=
  ∀ g ∈ s.youngest w, g.state = .opened → ∀ d ∈ g.ageDeadline, s.reached d = false

theorem State.ageExpiry_of_noneDue (h : s.noneDue w) : s.ageExpiry w = s := State.ageExpiry_none h

/-- The window's record and the time count decide. -/
theorem State.noneDue_congr (hw : t.win w = s.win w) (ht : t.timeCount = s.timeCount) (h : s.noneDue w) : t.noneDue w := by
  unfold State.noneDue State.youngest State.reached at *
  rw [hw, ht]
  exact h

theorem State.not_reached_add {n : Nat} (hlow : 1 ≤ n) (hhigh : n ≤ 2 ^ 31) : s.reached (s.timeCount + BitVec.ofNat 32 n) = false := by
  have hn : (s.timeCount + BitVec.ofNat 32 n - s.timeCount).toNat = n := by
    rw [add_sub_cancel_left, BitVec.toNat_ofNat, Nat.mod_eq_of_lt (by omega)]
  exact State.not_reached (by omega) (by omega)

/-- `s` one tick later, before any expiry (R182). -/
def State.later (s : State) : State := { s with timeCount := s.timeCount + 1 }

/-- A deadline two ticks ahead, or more, is not reached one tick later. -/
theorem State.later_not_reached {n : Nat} (hlow : 2 ≤ n) (hhigh : n ≤ 2 ^ 31) :
    s.later.reached (s.timeCount + BitVec.ofNat 32 n) = false := by
  have hnear : s.timeCount + BitVec.ofNat 32 n = s.later.timeCount + BitVec.ofNat 32 (n - 1) := by
    simp only [State.later]
    bv_omega
  rw [hnear]
  exact State.not_reached_add (by omega) (by omega)

theorem State.later_noneDue (h : ∀ g ∈ s.youngest w, g.state = .opened → ∀ d ∈ g.ageDeadline,
    ∃ n : Nat, 2 ≤ n ∧ n ≤ 2 ^ 31 ∧ d = s.timeCount + BitVec.ofNat 32 n) : s.later.noneDue w := by
  intro g hg ho d hd
  obtain ⟨n, hlow, hhigh, rfl⟩ := h g hg ho d hd
  exact State.later_not_reached hlow hhigh

/-! ### The tick (R180, R182) -/

theorem exec_usTick (hr : s.resetAsserted = false) : exec .usTick s = .next ((List.finRange 16).foldl State.ageExpiry s.later) := by
  rw [exec, execUsTick, hr]
  rfl

theorem exec_ageExpiry (hr : s.resetAsserted = false) : exec (.ageExpiry w) s = .next (s.ageExpiry w) := by
  rw [exec, execAgeExpiry, hr]
  rfl

theorem foldl_of_fixed {α β : Type} {f : α → β → α} {a : α} (l : List β) (h : ∀ b ∈ l, f a b = a) : l.foldl f a = a := by
  induction l with
  | nil => rfl
  | cons b l ih => rw [List.foldl_cons, h b (by simp), ih fun c hc => h c (by simp [hc])]

/-- Of the expiries of a list of windows, only that of window `w` acts. -/
theorem State.ageExpiries_one (l : List WIdx) (hl : l.Nodup) (hw : w ∈ l) (h : ∀ v, v ≠ w → s.noneDue v) :
    l.foldl State.ageExpiry s = s.ageExpiry w := by
  obtain ⟨before, after, rfl⟩ := List.append_of_mem hw
  rw [List.nodup_middle, List.nodup_cons] at hl
  have hne : ∀ v ∈ before ++ after, v ≠ w := fun v hv e => hl.1 (e ▸ hv)
  have hbefore : before.foldl State.ageExpiry s = s := foldl_of_fixed before fun v hv =>
    State.ageExpiry_of_noneDue (h v (hne v (List.mem_append_left _ hv)))
  have hafter : after.foldl State.ageExpiry (s.ageExpiry w) = s.ageExpiry w := foldl_of_fixed after fun v hv => by
    have hvw := hne v (List.mem_append_right _ hv)
    exact State.ageExpiry_of_noneDue (State.noneDue_congr (OnlyAt.ageExpiry s v hvw) (s.ageExpiry_timeCount w) (h v hvw))
  rw [List.foldl_append, List.foldl_cons, hbefore, hafter]

/-- Settles O37: a deadline ahead of the time count makes each expiry none. -/
theorem timersFollowTheTimeCount : Obligations.TimersFollowTheTimeCount := by
  intro s
  refine ⟨fun hr h => ?_, fun hr => ?_, fun k h => ?_, fun w h => ?_⟩
  · rw [exec_usTick hr, foldl_of_fixed _ fun v _ => State.ageExpiry_of_noneDue (State.later_noneDue (h v))]
    rfl
  · rw [exec, execUsTick, if_pos hr]
  · have hnone : s.holdExpiry k = s := by
      unfold State.holdExpiry
      split
      · next x hx =>
        have hslot : x.slot = k := by simpa using List.find?_some hx
        obtain ⟨n, hlow, hhigh, hd⟩ := h x (List.mem_of_find?_eq_some hx) hslot
        rw [hd, State.not_reached_add hlow hhigh]
        rfl
      · rfl
    rw [exec, execHoldExpiry, hnone, ite_self]
  · have hnone : s.noneDue w := fun g hg ho d hd => by
      obtain ⟨n, hlow, hhigh, rfl⟩ := h g hg ho d hd
      exact State.not_reached_add hlow hhigh
    rw [exec, execAgeExpiry, State.ageExpiry_of_noneDue hnone, ite_self]

/-! ### The expiry (R76, R78) -/

theorem State.afterSeal_marker (h : (s.win w).trigger = .marker) : s.afterSeal w = s.releaseAll w none := by
  rw [State.afterSeal, h]

/-- In the modes with epochs the sealed group stays SEALED (R76). -/
theorem State.afterSeal_epochs (h : (s.win w).trigger ≠ .marker) : s.afterSeal w = s := by
  unfold State.afterSeal
  split
  · next hm => exact absurd hm h
  · rfl
  · rfl

/-- The OPEN group `g` sealed with cause AGE and the event posted, before any release (R78). -/
def State.aged (s : State) (w : WIdx) (g : Group) : State :=
  ((s.windowTrigger w).setYoungest w (g.sealedBy .age none none)).post w (evGroupAged w g)

theorem State.trigger_aged (s : State) (g : Group) : ((s.aged w g).win w).trigger = (s.win w).trigger := by
  simp [State.aged, State.setYoungest]

theorem State.ageOut_seal (hg : s.youngest w = some g) (ho : g.state = .opened) (ha : (s.win w).ageAction = .seal) :
    s.ageOut w g = (s.aged w g).afterSeal w := by
  rw [State.ageOut, ha, State.sealOpen_some hg ho]
  rfl

theorem State.ageOut_break (ha : (s.win w).ageAction = .break_) : s.ageOut w g = s.breakOpen w .age none := by
  rw [State.ageOut, ha]

/-- Settles O36: the age action and the trigger mode decide what the expiry does, and within a tick no other window's acts. -/
theorem ageExpires : Obligations.AgeExpires := by
  intro s w g hr hg ho
  refine ⟨fun hd => ?_, fun _ hothers => ?_⟩
  · have hexec : exec (.ageExpiry w) s = .next (s.ageOut w g) := by
      rw [exec_ageExpiry hr, State.ageExpiry_some hg ho hd s.reached_now]
    refine ⟨fun ha ht => ?_, fun ha ht => ?_, fun ha => ?_⟩
    · rw [hexec, State.ageOut_seal hg ho ha, State.afterSeal_epochs (by rwa [State.trigger_aged])]
      rfl
    · rw [hexec, State.ageOut_seal hg ho ha, State.afterSeal_marker (by rwa [State.trigger_aged])]
      rfl
    · rw [hexec, State.ageOut_break ha]
  · have hlater : ∀ v, v ≠ w → s.later.noneDue v := fun v hv => State.later_noneDue (hothers v hv)
    rw [exec_usTick hr, State.ageExpiries_one _ (List.nodup_finRange 16) (List.mem_finRange w) hlater]
    exact (exec_ageExpiry (s := s.later) hr).symm

end Sys2Proof.Machine
end

section
/-! O54, O56. SEAL and DISCARD at the management port (R75 to R77, R83, R84, R148). -/

namespace Sys2Proof.Machine

/-! ### A command of the port that passes its checks -/

/-- With the port ready and no soft reset in progress, a command whose operands pass the port's checks places its block's answer. -/
theorem exec_portAnswer {s : State} {c : Instr} (hport : s.portTakes) (hsoft : s.softReset = false) (hc : c.isPortCommand = true)
    (hk : ∀ code, c = .badCommand code → knownCodes.contains code = false) (hcheck : Instr.portCheck c = none) :
    exec c s = .next ((s.portAnswer c).state.withReply (s.portAnswer c).reply) := by
  rw [exec_port_eq c hc hk, hcheck]
  exact take_act s c _ _ (canReceive_of_portTakes s _ hport) fun _ => hsoft

section
variable {s : State} (hport : s.portTakes) (hsoft : s.softReset = false) (w : WIdx)
include hport hsoft

theorem exec_seal :
    exec (.seal (BitVec.ofNat 8 w.val)) s = .next ((s.sealCommand w).state.withReply (s.sealCommand w).reply) := by
  rw [exec_portAnswer (c := .seal _) hport hsoft rfl (fun _ h => by cases h) (windowCheck_ofNat w), State.portAnswer, windowOf_ofNat]

theorem exec_discard :
    exec (.discard (BitVec.ofNat 8 w.val)) s = .next ((s.discardCommand w).state.withReply (s.discardCommand w).reply) := by
  rw [exec_portAnswer (c := .discard _) hport hsoft rfl (fun _ h => by cases h) (windowCheck_ofNat w), State.portAnswer, windowOf_ofNat]

end

/-! ### SEAL (R77) -/

section
variable {s : State} {w : WIdx} {g : Group}

theorem State.sealCommand_eq (hon : (s.win w).state = .online) (hg : s.youngest w = some g) (ho : g.state = .opened) :
    s.sealCommand w = answer .ok (((s.windowTrigger w).setYoungest w (g.sealedBy .manual none none)).afterSeal w) := by
  have hopen : s.hasOpen w = true := by simp [State.hasOpen, hg, ho]
  rw [State.sealCommand, if_pos ⟨hon, hopen⟩, State.sealOpen_some hg ho]
  rfl

theorem State.trigger_setYoungest (y : Group) : ((s.setYoungest w y).win w).trigger = (s.win w).trigger := by
  rw [State.setYoungest, State.win_modWin_same]

end

/-- Settles O54, by the trigger mode. -/
theorem sealCommand : Obligations.SealCommand := by
  intro s w g hport hsoft hon hg ho
  have hexec := exec_seal hport hsoft w
  rw [State.sealCommand_eq hon hg ho, answer_state, answer_reply] at hexec
  refine ⟨fun ht => ?_, fun ht => ?_⟩
  · rw [hexec, State.afterSeal_epochs (by rwa [State.trigger_setYoungest])]
    rfl
  · rw [hexec, State.afterSeal_marker (by rwa [State.trigger_setYoungest])]
    rfl

/-! ### The discard of one group (R83) -/

/-- The window's record after the discard of groups `l`: they are gone, and they and their pending marker responses are counted. -/
def Window.discarded (x : Window) (l : List Group) : Window :=
  { x with
    groups := x.groups.diff l
    stats := { x.stats with
      discarded := x.stats.discarded + BitVec.ofNat 32 l.length
      refused := x.stats.refused + BitVec.ofNat 32 (l.countP fun g => g.pendingMarker.isSome) } }

theorem Window.discarded_nil (x : Window) : x.discarded [] = x := by simp [Window.discarded]

theorem Window.discarded_cons (x : Window) (g : Group) (l : List Group) : (x.discarded [g]).discarded l = x.discarded (g :: l) := by
  simp only [Window.discarded, List.diff_cons, List.diff_nil, List.length_cons, List.length_nil, List.countP_cons, List.countP_nil,
    Nat.zero_add]
  congr 2
  · rw [BitVec.add_assoc, ← BitVec.ofNat_add, Nat.add_comm]
  · rw [BitVec.add_assoc, ← BitVec.ofNat_add, Nat.add_comm]

section
variable (s : State) (w : WIdx) (g : Group) (c : Cause)

/-- The pending marker response of a discarded group is counted as refused (R83). -/
theorem State.win_refusePending : (s.refusePending w g).win w =
    { s.win w with stats := { (s.win w).stats with
      refused := (s.win w).stats.refused + if g.pendingMarker.isSome then 1 else 0 } } := by
  unfold State.refusePending
  split
  · next hp => simp [hp, State.bumpRefused]
  · next hp => simp [hp]

theorem State.slots_refusePending : (s.refusePending w g).slots = s.slots := by
  unfold State.refusePending
  split <;> simp

theorem State.holds_refusePending : (s.refusePending w g).holds = s.holds := by
  unfold State.refusePending
  split <;> simp

theorem State.win_discardGroup : (s.discardGroup w g c).win w = (s.win w).discarded [g] := by
  simp only [State.discardGroup, State.win_windowTrigger, State.removeGroup, State.bumpDiscarded, State.win_modWin_same, State.win_post,
    State.win_refusePending, State.win_freeGroupSlots, Window.discarded, List.diff_cons, List.diff_nil]
  cases hp : g.pendingMarker <;> simp [hp]

theorem State.slots_discardGroup : (s.discardGroup w g c).slots = s.slots.filter fun e => !e.ofGroup w g.number := by
  simp [State.discardGroup, State.slots_refusePending, State.freeGroupSlots_slots]

/-- The discard of a group only marks held writes. -/
theorem State.holdSlots_discardGroup : (s.discardGroup w g c).holds.map Held.slot = s.holds.map Held.slot := by
  have hmark : ∀ (p : Held → Prop) [DecidablePred p] (l : List Held),
      (l.map fun h => if p h then { h with pending := true } else h).map Held.slot = l.map Held.slot := fun p _ l => by
    rw [List.map_map]
    refine List.map_congr_left fun h _ => ?_
    by_cases hp : p h <;> simp [hp]
  have hholds : (s.discardGroup w g c).holds =
      (s.freeGroupSlots w g.number).holds.map fun h => if h.window = w then { h with pending := true } else h := by
    simp only [State.discardGroup, State.windowTrigger, State.removeGroup, State.bumpDiscarded, State.modWin_holds, State.post_holds,
      State.holds_refusePending]
  rw [hholds, hmark, State.freeGroupSlots_marks, hmark]

/-- The discard of a group marks every write held for its window (R148). -/
theorem State.pending_discardGroup {h : Held} (hh : h ∈ (s.discardGroup w g c).holds) (hw : h.window = w) : h.pending = true := by
  rw [State.discardGroup, State.windowTrigger] at hh
  obtain ⟨y, -, rfl⟩ := List.mem_map.1 hh
  by_cases hy : y.window = w
  · simp [hy]
  · rw [if_neg hy] at hw
    exact absurd hw hy

end

/-! ### The discards of DISCARD, oldest first (R84) -/

section
variable (w : WIdx) (c : Cause)

theorem State.discards_win (l : List Group) (s : State) :
    (l.foldl (fun s g => s.discardGroup w g c) s).win w = (s.win w).discarded l := by
  induction l generalizing s with
  | nil => exact (Window.discarded_nil _).symm
  | cons g l ih => rw [List.foldl_cons, ih, State.win_discardGroup, Window.discarded_cons]

theorem State.discards_slots (l : List Group) (s : State) :
    (l.foldl (fun s g => s.discardGroup w g c) s).slots = s.slots.filter fun e => !l.any fun g => e.ofGroup w g.number := by
  induction l generalizing s with
  | nil => simp
  | cons g l ih =>
    rw [List.foldl_cons, ih, State.slots_discardGroup, List.filter_filter]
    refine List.filter_congr fun e _ => ?_
    rw [List.any_cons, Bool.not_or, Bool.and_comm]

theorem State.discards_holdSlots (l : List Group) (s : State) :
    (l.foldl (fun s g => s.discardGroup w g c) s).holds.map Held.slot = s.holds.map Held.slot := by
  induction l generalizing s with
  | nil => rfl
  | cons g l ih => rw [List.foldl_cons, ih, State.holdSlots_discardGroup]

theorem State.discards_pending {l : List Group} (hl : l ≠ []) (s : State) {h : Held}
    (hh : h ∈ (l.foldl (fun s g => s.discardGroup w g c) s).holds) (hw : h.window = w) : h.pending = true := by
  rw [← List.dropLast_append_getLast hl, List.foldl_append] at hh
  exact State.pending_discardGroup _ w _ c hh hw

theorem OnlyAt.discards (l : List Group) (s : State) : OnlyAt w s (l.foldl (fun s g => s.discardGroup w g c) s) := by
  induction l generalizing s with
  | nil => exact .refl s
  | cons g l ih => exact (OnlyAt.discardGroup s g c).trans (ih _)

end

/-- What is left of a list when the elements that pass a test are taken out one by one. -/
theorem diff_filter {α : Type} [BEq α] [LawfulBEq α] (p : α → Bool) (l : List α) :
    l.diff (l.filter p) = l.filter fun a => !p a := by
  induction l with
  | nil => rfl
  | cons a l ih =>
    cases hp : p a
    · have hnot : a ∉ l.filter p := fun h => by simp [hp] at h
      simp [hp, List.cons_diff_of_not_mem hnot, ih]
    · simp [hp, ih]

/-- Settles O56: the groups discarded one by one, and what each discard does. -/
theorem discardCommand : Obligations.DiscardCommand := by
  intro s w hport hsoft hstate gone hgone
  have hlive : (s.win w).state.onlineOrFrozen = true := by rcases hstate with h | h <;> rw [h] <;> rfl
  have hholds : s.holdsUnreleased w = true := by
    obtain ⟨g, hg⟩ := List.exists_mem_of_ne_nil _ hgone
    obtain ⟨hg, hu⟩ := List.mem_filter.1 hg
    exact List.any_eq_true.2 ⟨g, hg, hu⟩
  have hexec := exec_discard hport hsoft w
  rw [State.discardCommand, if_pos ⟨hlive, hholds⟩, answer_state, answer_reply] at hexec
  refine ⟨s.discardUnreleased w .manual, hexec, ?_, State.discards_slots w .manual gone s, State.discards_holdSlots w .manual gone s,
    fun h hh hw => State.discards_pending w .manual hgone s hh hw, OnlyAt.discards w .manual gone s,
    same_closed.discardUnreleased s w .manual⟩
  have hleft : (s.win w).groups.diff gone = (s.win w).groups.filter fun g => g.state.releasedOrLater := by
    simp only [gone, diff_filter, Bool.not_not]
  rw [← hleft]
  exact State.discards_win w .manual gone s

end Sys2Proof.Machine
end

section
/-! O15, O21. The marker writes of the owner (R64 to R66, R70 to R73, R75, R76, R81, R83): the seal of its OPEN group and what the release
does with it at once, the group that a marker write opens and seals, and the end of its BROKEN group. -/

namespace Sys2Proof.Machine

/-! ### The sort of a write (R65) -/

/-- A write of exactly the marker lanes at the marker line is a marker write. -/
theorem Window.lanes_of_marker {x : Window} {l : Line} {lanes : Lanes} {lg : Fin 4} {c : Completion}
    (h : x.shape l lanes = .marker lg c) : lanes = markerLanes lg := by
  unfold Window.shape at h
  split at h
  · cases h
  · split at h
    · split at h
      · next hlanes => cases h; exact hlanes
      · split at h <;> cases h
    · cases h

/-- The eight marker lanes lie where the marker word is read (R70). -/
theorem markerLanes_getLsbD : ∀ (lg : Fin 4) (j : Fin 8), (markerLanes lg).getLsbD (8 * lg.val + j.val) = true := by decide

/-- The marker bytes of a write that carries the marker lanes. -/
theorem markerOf_restrict (lg : Fin 4) (d : LineData) : markerOf lg (restrict (markerLanes lg) d) = markerOf lg d := by
  refine Vector.ext fun j hj => ?_
  have hlane := markerLanes_getLsbD lg ⟨j, hj⟩
  simp only [markerOf, restrict, Vector.getElem_ofFn, hlane, if_true]
  rfl

/-! ### A group queue written whole -/

/-- Window `w`'s group queue replaced. -/
def State.setGroups (s : State) (w : WIdx) (l : List Group) : State := s.modWin w fun x => { x with groups := l }

@[simp] theorem State.win_setGroups (s : State) (w : WIdx) (l : List Group) :
    (s.setGroups w l).win w = { s.win w with groups := l } := by
  rw [State.setGroups, State.win_modWin_same]

@[simp] theorem State.setGroups_setGroups (s : State) (w : WIdx) (l m : List Group) :
    (s.setGroups w l).setGroups w m = s.setGroups w m := by
  simp [State.setGroups, State.modWin]

theorem State.setGroups_setWin (s : State) (w : WIdx) (x : Window) (l : List Group) :
    (s.setWin w x).setGroups w l = s.setWin w { x with groups := l } := by
  simp [State.setGroups, State.modWin]

theorem State.setOldest_eq (s : State) (w : WIdx) (g : Group) : s.setOldest w g = s.setGroups w (g :: (s.win w).groups.tail) := rfl

theorem State.releaseSealed_eq (s : State) (w : WIdx) (e : Option (BitVec 16)) :
    s.releaseSealed w e = s.setGroups w ((s.win w).groups.map fun g => g.releasedAt e) := rfl

/-! ### What the release of a sealed group does (R94, R103, R104) -/

section
variable {s : State} {w : WIdx} {g y o : Group}

/-- The drain engine takes nothing while the window's oldest group is drained. -/
theorem State.drainTake_drained (hg : s.oldest w = some o) (hd : o.state = .draining ∨ o.state = .marking ∨ o.state = .faulted) :
    s.drainTake w = s := by
  have htake : s.canTake w o = false := by rcases hd with hd | hd | hd <;> simp [State.canTake, hd]
  have hne : (s.win w).groups ≠ [] := fun h => by simp [State.oldest, h] at hg
  have hloop : State.takeLoop (s.win w).groups.length s w = s := by
    cases (s.win w).groups.length with
    | zero => rfl
    | succ n => rw [State.takeLoop, hg]; simp [htake]
  rw [State.drainTake, hloop, State.offlineIfEmpty, if_neg fun h => hne h.2]

/-- Behind a group that drains, the sealed groups are released and wait (R94, R103). -/
theorem State.releaseAll_drained (hg : s.oldest w = some o) (hd : o.state = .draining ∨ o.state = .marking ∨ o.state = .faulted)
    (hs : s.holdsSealed w = true) (e : Option (BitVec 16)) : s.releaseAll w e = s.releaseSealed w e := by
  have hstays : o.releasedAt e = o := if_neg (by rcases hd with hd | hd | hd <;> simp [hd])
  have hfirst : (s.releaseSealed w e).oldest w = some o := by
    rw [State.oldest, State.releaseSealed, State.win_modWin_same, List.head?_map, ← State.oldest, hg, Option.map_some, hstays]
  rw [State.releaseAll, if_pos hs, State.drainTake_drained hfirst hd]

/-- Where the youngest group alone is SEALED, it alone is released. -/
theorem State.releaseSealed_youngest {init : List Group} (hgroups : (s.win w).groups = init ++ [y]) (hy : y.state = .sealed)
    (hinit : ∀ z ∈ init, z.state ≠ .sealed) (e : Option (BitVec 16)) :
    s.releaseSealed w e = s.setGroups w (init ++ [{ y with state := .released, releaseEpoch := e }]) := by
  have hkept : init.map (fun g => g.releasedAt e) = init :=
    (List.map_congr_left fun z hz => if_neg (hinit z hz)).trans (List.map_id _)
  have hreleased : y.releasedAt e = { y with state := .released, releaseEpoch := e } := if_pos hy
  rw [State.releaseSealed_eq, hgroups, List.map_append, hkept, List.map_singleton, hreleased]

/-- A marker's taking: the drain engine takes a window's oldest group, without entries but with marker data (R104). -/
theorem State.drainTake_marking (hg : s.oldest w = some g) (ht : s.canTake w g = true) (he : g.entryCount = 0)
    (hm : g.markerData.isSome = true) : s.drainTake w = s.setOldest w { g.taken with state := .marking } := by
  obtain ⟨rest, hgroups⟩ : ∃ rest, (s.win w).groups = g :: rest := List.head?_eq_some_iff.1 hg
  obtain ⟨m, hm⟩ := Option.isSome_iff_exists.1 hm
  have hloop : State.takeLoop (s.win w).groups.length s w = s.setOldest w { g.taken with state := .marking } := by
    rw [hgroups, List.length_cons, State.takeLoop, hg]
    simp only [ht, if_true, if_pos he, hm]
  rw [State.drainTake, hloop, State.offlineIfEmpty, if_neg (by simp [State.setOldest])]

/-- The record of a group released and taken at once: DRAINING with entries, MARKING with its marker data alone (R103, R104). -/
def Group.releasedTaken (g : Group) (e : Option (BitVec 16)) : Group :=
  { g with
    state := if g.entryCount = 0 then .marking else .draining, releaseEpoch := e
    issued := 0, acked := 0, outstanding := 0, failedLine := none }

/-- The only group of a window is released and taken by the drain engine at once. -/
theorem State.releaseAll_only (hgroups : (s.win w).groups = [y]) (hy : y.state = .sealed) (hf : (s.win w).state ≠ .frozen)
    (ho : s.hasOrphan w = false) (hm : y.entryCount = 0 → y.markerData.isSome = true) (e : Option (BitVec 16)) :
    s.releaseAll w e = s.setGroups w [y.releasedTaken e] := by
  let z : Group := { y with state := .released, releaseEpoch := e }
  have hsealed : s.holdsSealed w = true := by simp [State.holdsSealed, hgroups, hy]
  have hrel : s.releaseSealed w e = s.setGroups w [z] := State.releaseSealed_youngest (init := []) hgroups hy (by simp) e
  have hfirst : (s.setGroups w [z]).oldest w = some z := by rw [State.oldest, State.win_setGroups, List.head?_cons]
  have horphan : (s.setGroups w [z]).hasOrphan w = false := ho
  have htake : (s.setGroups w [z]).canTake w z = true := by simp [State.canTake, hf, horphan, z]
  rw [State.releaseAll, if_pos hsealed, hrel]
  by_cases hz : y.entryCount = 0
  · rw [State.drainTake_marking hfirst htake hz (hm hz), State.setOldest_eq, State.win_setGroups, State.setGroups_setGroups,
      Group.releasedTaken, if_pos hz]
    rfl
  · rw [State.drainTake_of_entries hfirst htake hz, State.setOldest_eq, State.win_setGroups, State.setGroups_setGroups,
      Group.releasedTaken, if_neg hz]
    rfl

/-! ### The seal of the OPEN group and what R76 adds -/

theorem State.sealOpen_eq (hg : s.youngest w = some g) (ho : g.state = .opened) (c : SealCause) (m : Option MarkerData)
    (pm : Option (Source × Tag)) :
    s.sealOpen w c m pm = (s.windowTrigger w).setGroups w ((s.win w).groups.dropLast ++ [g.sealedBy c m pm]) :=
  State.sealOpen_some hg ho c m pm

/-- In the modes with epochs the group stays SEALED. -/
theorem State.seal_epochs (hg : s.youngest w = some g) (ho : g.state = .opened) (ht : (s.win w).trigger ≠ .marker) (c : SealCause)
    (m : Option MarkerData) (pm : Option (Source × Tag)) :
    (s.sealOpen w c m pm).afterSeal w =
      (s.windowTrigger w).setGroups w ((s.win w).groups.dropLast ++ [g.sealedBy c m pm]) := by
  rw [State.sealOpen_eq hg ho]
  exact State.afterSeal_epochs (by rwa [State.win_setGroups])

/-- In MARKER mode the window's only group is released and taken. -/
theorem State.seal_marker_only (hgroups : (s.win w).groups = [g]) (ho : g.state = .opened) (ht : (s.win w).trigger = .marker)
    (hf : (s.win w).state ≠ .frozen) (horphan : s.hasOrphan w = false) (c : SealCause) {m : Option MarkerData} (hm : m.isSome = true)
    (pm : Option (Source × Tag)) :
    (s.sealOpen w c m pm).afterSeal w = (s.windowTrigger w).setGroups w [(g.sealedBy c m pm).releasedTaken none] := by
  have hg : s.youngest w = some g := by simp [State.youngest, hgroups]
  have hseal := State.sealOpen_eq hg ho c m pm
  rw [hgroups] at hseal
  rw [hseal, State.afterSeal_marker (by rwa [State.win_setGroups]),
    State.releaseAll_only (s := (s.windowTrigger w).setGroups w ([g].dropLast ++ [g.sealedBy c m pm])) (y := g.sealedBy c m pm)
      (by rw [State.win_setGroups]; rfl) rfl (by rwa [State.win_setGroups]) horphan (fun _ => hm),
    State.setGroups_setGroups]

/-- In MARKER mode, behind a group that drains and with no other group SEALED, the group is released and waits. -/
theorem State.seal_marker_behind (hg : s.youngest w = some g) (ho : g.state = .opened) (ht : (s.win w).trigger = .marker)
    (hd : ∃ o ∈ s.oldest w, o.state = .draining ∨ o.state = .marking) (hs : ∀ z ∈ (s.win w).groups, z.state ≠ .sealed) (c : SealCause)
    (m : Option MarkerData) (pm : Option (Source × Tag)) :
    (s.sealOpen w c m pm).afterSeal w = (s.windowTrigger w).setGroups w
      ((s.win w).groups.dropLast ++ [{ g.sealedBy c m pm with state := .released, releaseEpoch := none }]) := by
  obtain ⟨o, hfirst, hdrains⟩ := hd
  obtain ⟨init, hgroups⟩ : ∃ init, (s.win w).groups = init ++ [g] := List.getLast?_eq_some_iff.1 hg
  have hinit : ∀ z ∈ init, z.state ≠ .sealed := fun z hz => hs z (by simp [hgroups, hz])
  -- the oldest group drains, so it is not the one that is sealed
  have holdest : ∀ z : Group, (init ++ [z]).head? = some o := fun z => by
    rw [Option.mem_def, State.oldest, hgroups] at hfirst
    cases init with
    | nil =>
      obtain rfl : g = o := by simpa using hfirst
      simp [ho] at hdrains
    | cons a init => simpa using hfirst
  have hseal := State.sealOpen_eq hg ho c m pm
  rw [hgroups, List.dropLast_concat] at hseal ⊢
  rw [hseal, State.afterSeal_marker (by rwa [State.win_setGroups]),
    State.releaseAll_drained (o := o) (by rw [State.oldest, State.win_setGroups]; exact holdest _) (hdrains.imp id .inl)
      (by simp [State.holdsSealed, Group.sealedBy]),
    State.releaseSealed_youngest (init := init) (y := g.sealedBy c m pm) (by rw [State.win_setGroups]) rfl hinit,
    State.setGroups_setGroups]

end

/-! ### An arriving marker write (R70 to R73) -/

/-- The pending marker response that the marker completion leaves in the sealed group (R72, R73). -/
def Completion.awaits (c : Completion) (src : Source) (tag : Tag) : Option (Source × Tag) :=
  match c with
  | .early => none
  | .late => some (src, tag)

section
variable {s : State} {r : UpRequest} {w : WIdx} {t : RecNo} (h : ∀ u ≠ t, ∀ x ∈ s.rcd u, ¬(x.source = r.source ∧ x.tag = r.tag))
include h

/-- The record of an arriving write comes to wait for the end of its group. -/
theorem waitWrite_intake (wt : Wait) :
    (s.intake t (groupRecord r w)).waitWrite r.source r.tag wt = s.intake t { groupRecord r w with wait := wt } := by
  rw [State.waitWrite, groupRcd_intake s r w t h]
  simp only [State.modRcd, rcd_intake, if_true, Option.map_some, setRcd_intake]

/-- An arriving marker write is answered, or left waiting, before it seals the OPEN group. -/
theorem markerSeal_intake {lg : Fin 4} (hlanes : r.lanes = markerLanes lg) (c : Completion) :
    (s.intake t (groupRecord r w)).markerSeal (arrivalWrite r w) lg c =
      ((s.intake t (c.ends (groupRecord r w))).sealOpen w .marker (some (markerOf lg r.data)) (c.awaits r.source r.tag)).afterSeal w := by
  have hbytes : markerOf lg (arrivalWrite r w).data = markerOf lg r.data := by
    rw [arrivalWrite, hlanes]
    exact markerOf_restrict lg r.data
  cases c with
  | early =>
    rw [State.markerSeal, endWrite_intake s r w t .done h, hbytes]
    rfl
  | late =>
    have hwait : ((s.intake t (groupRecord r w)).endHold (arrivalWrite r w)).waitWrite r.source r.tag .publication =
        s.intake t (Completion.late.ends (groupRecord r w)) := waitWrite_intake h .publication
    rw [State.markerSeal, hbytes]
    exact congrArg (fun a : State => (a.sealOpen w .marker (some (markerOf lg r.data)) (some (r.source, r.tag))).afterSeal w) hwait

end

/-- A marker write with no open group, and room in the queue, opens the group that it seals (R66, R71). -/
theorem State.takeWrite_opens_marker {s : State} {x : Write} {lg : Fin 4} {c : Completion} (hon : (s.win x.window).state = .online)
    (hsh : (s.win x.window).shape x.line x.lanes = .marker lg c) (hno : s.noOpenGroup x.window)
    (hroom : (s.win x.window).groups.length < 4) : s.takeWrite x = (s.openGroup x.window x.source).markerSeal x lg c := by
  have hy : (s.openGroup x.window x.source).youngest x.window = some (s.newGroup x.window x.source) := by
    simp [State.youngest, State.openGroup, State.newGroup]
  rw [State.takeWrite_online hon (by simp [hsh]), hsh, State.groupTests_new hno, State.newGroupWrite,
    if_pos (by simpa [Config.groupRecords] using hroom), State.openingWrite, hy]
  rfl

/-- The sort of R65, by the line and then by the lanes. -/
theorem Window.shape_sort (x : Window) (l : Line) (lanes : Lanes) :
    (x.marker = none → x.shape l lanes = .data) ∧
      ∀ m ∈ x.marker,
        (l ≠ x.base + m.offset.setWidth 35 → x.shape l lanes = .data) ∧
        (l = x.base + m.offset.setWidth 35 →
          (lanes = markerLanes m.laneGroup → x.shape l lanes = .marker m.laneGroup m.completion) ∧
          (lanes &&& markerLanes m.laneGroup = 0 → x.shape l lanes = .data) ∧
          (lanes ≠ markerLanes m.laneGroup → lanes &&& markerLanes m.laneGroup ≠ 0 → x.shape l lanes = .mix)) := by
  refine ⟨fun hm => by rw [Window.shape, hm], fun m hm => ?_⟩
  rw [Option.mem_def] at hm
  rw [Window.shape, hm]
  refine ⟨fun hl => if_neg hl, fun hl => ⟨fun hlanes => ?_, fun hnone => ?_, fun hne hsome => ?_⟩⟩
  · exact (if_pos hl).trans (if_pos hlanes)
  · have hne : lanes ≠ markerLanes m.laneGroup := by
      rintro rfl
      have hlane := markerLanes_getLsbD m.laneGroup 0
      rw [BitVec.and_self] at hnone
      simp [hnone] at hlane
    exact (if_pos hl).trans ((if_neg hne).trans (if_pos hnone))
  · exact (if_pos hl).trans ((if_neg hne).trans (if_neg hsome))

/-- Settles O15: the sort, the seal of the owner's OPEN group, and the same seal of a group that the write opens. -/
theorem markerWriteSeals : Obligations.MarkerWriteSeals := by
  refine ⟨Window.shape_sort, fun s r w g lg c harr hsh hg ho hs => ?_, fun s r w lg c harr hsh hno hroom => ?_⟩
  · obtain ⟨hon, t, ht, hone, hexec⟩ := arrival_eq harr
    let a : State := s.intake t (c.ends (groupRecord r w))
    have htake : (s.intake t (groupRecord r w)).takeWrite (arrivalWrite r w) =
        (a.sealOpen w .marker (some (markerOf lg r.data)) (c.awaits r.source r.tag)).afterSeal w :=
      (State.takeWrite_marker (s := s.intake t (groupRecord r w)) (x := arrivalWrite r w) hon hsh hg ⟨ho, hs⟩).trans
        (markerSeal_intake hone (Window.lanes_of_marker hsh) c)
    rw [htake] at hexec
    refine ⟨t, ht, fun hm => ?_, fun hm hgroups horphan => ?_, fun hm hd hsealed => ?_⟩
    · rw [hexec, State.seal_epochs (s := a) hg ho (fun h => by cases hm.symm.trans h)]
      cases c <;> rfl
    · rw [hexec, State.seal_marker_only (s := a) hgroups ho hm (fun h => by cases hon.symm.trans h) horphan _ rfl]
      cases c <;> rfl
    · rw [hexec, State.seal_marker_behind (s := a) hg ho hm hd hsealed]
      cases c <;> rfl
  · obtain ⟨hon, t, ht, hone, hexec⟩ := arrival_eq harr
    let x : Window := (s.win w).opened (s.newGroup w r.source)
    let a : State := (s.setWin w x).intake t (c.ends (groupRecord r w))
    have hwin : a.win w = x := State.win_setWin_same s w x
    have hg : a.youngest w = some (s.newGroup w r.source) := by
      rw [State.youngest, hwin]
      exact List.getLast?_concat
    have htake : (s.intake t (groupRecord r w)).takeWrite (arrivalWrite r w) =
        (a.sealOpen w .marker (some (markerOf lg r.data)) (c.awaits r.source r.tag)).afterSeal w :=
      (State.takeWrite_opens_marker (s := s.intake t (groupRecord r w)) (x := arrivalWrite r w) hon hsh hno hroom).trans
        (markerSeal_intake (s := s.setWin w x) hone (Window.lanes_of_marker hsh) c)
    -- a queue written over that of the window just opened
    have hset : ∀ l : List Group, (a.windowTrigger w).setGroups w l =
        ((s.intake t (c.ends (groupRecord r w))).windowTrigger w).setWin w { x with groups := l } := fun l =>
      State.setGroups_setWin ((s.intake t (c.ends (groupRecord r w))).windowTrigger w) w x l
    have hlast : (a.win w).groups.dropLast = (s.win w).groups := by
      rw [hwin]
      exact List.dropLast_concat
    rw [htake] at hexec
    refine ⟨t, ht, fun hm => ?_, fun hm hempty horphan => ?_, fun hm hd hsealed => ?_⟩
    · rw [hexec, State.seal_epochs (s := a) hg rfl (by rw [hwin]; exact fun h => by cases hm.symm.trans h), hset, hlast]
      cases c <;> rfl
    · have hgroups : (a.win w).groups = [s.newGroup w r.source] := by
        rw [hwin]
        exact congrArg (· ++ [s.newGroup w r.source]) hempty
      rw [hexec, State.seal_marker_only (s := a) hgroups rfl (by rw [hwin]; exact hm)
        (by rw [hwin]; exact fun h => by cases hon.symm.trans h) horphan _ rfl, hset]
      cases c <;> rfl
    · obtain ⟨o, ho, hdrains⟩ := hd
      have hd : ∃ o ∈ a.oldest w, o.state = .draining ∨ o.state = .marking := by
        refine ⟨o, ?_, hdrains⟩
        obtain ⟨rest, hrest⟩ : ∃ rest, (s.win w).groups = o :: rest := List.head?_eq_some_iff.1 ho
        rw [Option.mem_def, State.oldest, hwin]
        exact congrArg (fun l => (l ++ [s.newGroup w r.source]).head?) hrest
      have hnone : ∀ z ∈ (a.win w).groups, z.state ≠ .sealed := fun z hz => by
        rw [hwin] at hz
        rcases List.mem_append.1 hz with hz | hz
        · exact hsealed z hz
        · rw [List.mem_singleton.1 hz]
          exact fun hstate => by cases hstate
      rw [hexec, State.seal_marker_behind (s := a) hg rfl (by rw [hwin]; exact hm) hd hnone, hset, hlast]
      cases c <;> rfl

/-! ### The end of the BROKEN group (R64, R81, R83) -/

section
variable {s : State} {w : WIdx}

theorem State.offer_setWin (x : Window) (e : EventBody) : (s.setWin w x).offer e = (s.offer e).setWin w x := by
  by_cases hroom : s.events.length < Config.eventRecords
  · rw [State.offer, State.offer, if_pos hroom]
    exact if_pos hroom
  · rw [State.offer, State.offer, if_neg hroom]
    exact if_neg hroom

/-- A post and a change of the window's record that keeps its event enables commute (R160). -/
theorem State.post_setWin {x : Window} (hx : x.enables = (s.win w).enables) (e : EventBody) :
    (s.setWin w x).post w e = (s.post w e).setWin w x := by
  rw [State.post, State.post, State.win_setWin_same, hx]
  split
  · exact State.offer_setWin x e
  · rfl

theorem State.windowTrigger_setWin (v : WIdx) (x : Window) : (s.setWin w x).windowTrigger v = (s.windowTrigger v).setWin w x := rfl

theorem State.freeGroupSlots_of_none {n : Byte} (h : ∀ e ∈ s.slots, e.ofGroup w n = false) : s.freeGroupSlots w n = s := by
  have hcount : (s.slots.countP fun e => e.ofGroup w n) = 0 := List.countP_eq_zero.2 fun e he => by simp [h e he]
  exact if_pos hcount

/-- The discard of a group without entries and without a pending marker response: the event, the count, the record and the marks. -/
theorem State.discardGroup_bare {g : Group} (hslots : ∀ e ∈ s.slots, e.ofGroup w g.number = false) (hp : g.pendingMarker = none)
    (c : Cause) :
    s.discardGroup w g c = ((s.post w (evGroupDiscarded w g c)).windowTrigger w).setWin w
      { s.win w with
        groups := (s.win w).groups.erase g
        stats := { (s.win w).stats with discarded := (s.win w).stats.discarded + 1 } } := by
  rw [State.discardGroup, State.freeGroupSlots_of_none hslots, State.refusePending_none hp, State.bumpDiscarded, State.removeGroup,
    State.modWin, State.modWin, State.win_setWin_same, State.setWin_setWin, State.win_post]
  rfl

/-- The youngest group, not among the older ones, is the one that its removal takes. -/
theorem State.erase_youngest {g : Group} (hg : s.youngest w = some g) (hnew : g ∉ (s.win w).groups.dropLast) :
    (s.win w).groups.erase g = (s.win w).groups.dropLast := by
  obtain ⟨init, hgroups⟩ : ∃ init, (s.win w).groups = init ++ [g] := List.getLast?_eq_some_iff.1 hg
  rw [hgroups, List.dropLast_concat] at hnew ⊢
  rw [List.erase_append_right _ hnew, List.erase_cons_head, List.append_nil]

end

/-- A marker write of the owner of the BROKEN group is refused and ends the group (R81). -/
theorem State.takeWrite_endsBroken {s : State} {x : Write} {g : Group} {lg : Fin 4} {c : Completion}
    (hon : (s.win x.window).state = .online) (hsh : (s.win x.window).shape x.line x.lanes = .marker lg c)
    (hg : s.youngest x.window = some g) (hb : g.state = .broken) (hs : g.owner = x.source) :
    s.takeWrite x = (s.refuseWrite x .broken).discardGroup x.window g .brokenEnd := by
  rw [State.takeWrite_online hon (by simp [hsh]), hsh, State.groupTests_broken hg hb hs]
  rfl

/-- Settles O21: the refusal, then the discard of a group that holds nothing but its record. -/
theorem markerWriteEndsBrokenGroup : Obligations.MarkerWriteEndsBrokenGroup := by
  intro s r w g lg c harr hsh hg hbroken hown hslots hp hnew
  obtain ⟨hon, t, ht, hone, hexec⟩ := arrival_eq harr
  let a : State := (s.intake t { groupRecord r w with wait := .answer, result := some .refused }).post w
    (evWriteRefused w r.source .broken r.line)
  let x : Window := { s.win w with stats := { (s.win w).stats with refused := (s.win w).stats.refused + 1 } }
  have hwin : a.win w = s.win w := State.win_post _ w _ w
  have hwrite : (s.intake t (groupRecord r w)).takeWrite (arrivalWrite r w) =
      ((s.intake t (groupRecord r w)).refuseWrite (arrivalWrite r w) .broken).discardGroup w g .brokenEnd :=
    State.takeWrite_endsBroken (s := s.intake t (groupRecord r w)) (x := arrivalWrite r w) hon hsh hg hbroken hown
  have hrefused : a.bumpRefused w = a.setWin w x := by
    rw [State.bumpRefused, State.modWin, hwin]
  have hslots_a : a.slots = s.slots := State.post_slots _ _ _
  have hholds : (a.post w (evGroupDiscarded w g .brokenEnd)).holds = s.holds :=
    (State.post_holds a w _).trans (State.post_holds _ w _)
  have hgroups : x.groups.erase g = (s.win w).groups.dropLast := State.erase_youngest hg hnew
  have hbare : ∀ e ∈ (a.setWin w x).slots, e.ofGroup w g.number = false := fun e he => hslots e (hslots_a ▸ he)
  refine ⟨t, ht, ?_⟩
  rw [hexec, hwrite, refuseWrite_intake s r w t .broken hone, hrefused, State.discardGroup_bare hbare hp,
    State.post_setWin (by rw [hwin]), State.win_setWin_same, hgroups, State.windowTrigger_setWin, State.setWin_setWin,
    State.windowTrigger, hholds]
  rfl

end Sys2Proof.Machine
end

section
/-! O55. RELEASE at the management port (R96), and what the drain engine takes of the groups released (R103). -/

namespace Sys2Proof.Machine

section
variable {s : State} {w : WIdx} {g : Group}

theorem State.holdsSealed_of_mem (hg : g ∈ (s.win w).groups) (hs : g.state = .sealed) : s.holdsSealed w = true :=
  List.any_eq_true.2 ⟨g, hg, beq_iff_eq.2 hs⟩

/-- The oldest group, SEALED and with entries, is taken by the drain engine as it is released; the SEALED groups behind it are released and
wait (R94, R103). -/
theorem State.releaseAll_taken (hg : s.oldest w = some g) (hs : g.state = .sealed) (he : g.entryCount ≠ 0)
    (hf : (s.win w).state ≠ .frozen) (ho : s.hasOrphan w = false) (e : Option (BitVec 16)) :
    s.releaseAll w e =
      s.setGroups w ({ g.taken with releaseEpoch := e } :: (s.win w).groups.tail.map fun y => y.releasedAt e) := by
  obtain ⟨rest, hgroups⟩ : ∃ rest, (s.win w).groups = g :: rest := List.head?_eq_some_iff.1 hg
  let z : Group := { g with state := .released, releaseEpoch := e }
  have hz : g.releasedAt e = z := if_pos hs
  have hrel : s.releaseSealed w e = s.setGroups w (z :: rest.map fun y => y.releasedAt e) := by
    rw [State.releaseSealed_eq, hgroups, List.map_cons, hz]
  let u : State := s.setGroups w (z :: rest.map fun y => y.releasedAt e)
  have hfirst : u.oldest w = some z := by rw [State.oldest, State.win_setGroups, List.head?_cons]
  have horphan : u.hasOrphan w = false := ho
  have hstate : (u.win w).state ≠ .frozen := by rwa [State.win_setGroups]
  have htake : u.canTake w z = true := by simp [State.canTake, hstate, horphan, z]
  rw [State.releaseAll, if_pos (State.holdsSealed_of_mem (by simp [hgroups]) hs), hrel, State.drainTake_of_entries hfirst htake he,
    State.setOldest_eq, State.win_setGroups, State.setGroups_setGroups, hgroups]
  rfl

theorem exec_release (hport : s.portTakes) (hsoft : s.softReset = false) (w : WIdx) :
    exec (.release (BitVec.ofNat 8 w.val)) s = .next ((s.releaseCommand w).state.withReply (s.releaseCommand w).reply) := by
  rw [exec_portAnswer (c := .release _) hport hsoft rfl (fun _ h => by cases h) (windowCheck_ofNat w), State.portAnswer, windowOf_ofNat]

theorem State.releaseCommand_eq (hstate : (s.win w).state = .online ∨ (s.win w).state = .frozen) (hs : s.holdsSealed w = true) :
    s.releaseCommand w = answer .ok (s.releaseAll w none) := by
  have hopen : (s.win w).state.onlineOrFrozen = true := by rcases hstate with h | h <;> rw [h] <;> rfl
  exact if_pos ⟨hopen, hs⟩

end

/-- Settles O55, by what the window's oldest group is: drained already, or SEALED and taken at once. -/
theorem releaseCommand : Obligations.ReleaseCommand := by
  intro s w g hport hsoft hstate ⟨y, hy, hsealed⟩ hg
  have hs := State.holdsSealed_of_mem hy hsealed
  have hexec := exec_release hport hsoft w
  rw [State.releaseCommand_eq hstate hs, answer_state, answer_reply] at hexec
  refine ⟨fun hd => ?_, fun hgs he ho hon => ?_⟩
  · rw [hexec, State.releaseAll_drained hg hd hs]
    rfl
  · rw [hexec, State.releaseAll_taken hg hgs he (by rw [hon]; decide) ho]
    rfl

end Sys2Proof.Machine
end

section
/-! O38. The samples of EPOCH_IN, the way of an epoch event to the windows, and its effect at each (R88 to R94, R103). -/

namespace Sys2Proof.Machine

theorem exec_epochEvent {s : State} (hr : s.resetAsserted = false) (d : EpochDelivery) :
    exec (.epochEvent d) s = .next (s.epochEvent d) := by
  rw [exec, execEpochEvent, hr]
  rfl

/-! ### The samples (R88 to R90) -/

section
variable (s : State)

theorem State.due_epochEdge (w : WIdx) : s.epochEdge.due w = s.due w ++ [s.epochCounter + 1] := by
  simp [State.due, State.epochEdge]

/-- Low, then high is one edge, whatever the level was before (R88). -/
theorem State.epochEvent_low_high (ws : List WIdx) : s.epochEvent ⟨[false, true], ws⟩ = ws.foldl State.epochDeliver s.epochEdge := by
  have hrise : (s.epochSample false).epochSample true = s.epochEdge := by
    rw [State.epochSample_rise _ (State.epochSample_epochLevel s false)]
    rfl
  exact congrArg (ws.foldl State.epochDeliver) hrise

/-- One sample: an edge, or the level alone. -/
theorem State.epochSample_eq (high : Bool) :
    s.epochSample high = if s.epochLevel = false ∧ high = true then s.epochEdge else { s with epochLevel := high } := by
  cases high with
  | false => simp
  | true =>
    cases hl : s.epochLevel with
    | false => rw [s.epochSample_rise hl, if_pos ⟨rfl, rfl⟩]
    | true =>
      rw [s.epochSample_high hl, if_neg (by simp), ← hl]

end

/-! ### The effect at one window, by its mode (R90 to R94) -/

section
variable {s : State} {w : WIdx} {g : Group} {e : BitVec 16}

theorem State.epochDeliver_none (h : s.due w = []) : s.epochDeliver w = s := by
  rw [State.epochDeliver, h]

theorem State.epochDeliver_cons {later : List (BitVec 16)} (h : s.due w = e :: later) :
    s.epochDeliver w = (s.setDue w later).epochAt e w := by
  rw [State.epochDeliver, h]

/-- An epoch event has no effect at the window: it is UNUSED or OFFLINE, or in MARKER mode (R90, R91). -/
abbrev State.epochInert (s : State) (w : WIdx) : Prop := (s.win w).state.live = false ∨ (s.win w).trigger = .marker

theorem State.epochAt_inert (h : s.epochInert w) : s.epochAt e w = s := by
  unfold State.epochAt
  split
  · next hlive => rw [State.epochAct, h.resolve_left (by simp [hlive])]
  · rfl

theorem State.epochAt_markerEpoch (hlive : (s.win w).state.live = true) (ht : (s.win w).trigger = .markerEpoch) :
    s.epochAt e w = s.releaseAll w (some e) := by
  rw [State.epochAt, if_pos hlive, State.epochAct, ht]

theorem State.epochAt_epoch (hlive : (s.win w).state.live = true) (ht : (s.win w).trigger = .epoch) :
    s.epochAt e w = (s.epochClose w).releaseAll w (some e) := by
  rw [State.epochAt, if_pos hlive, State.epochAct, ht]

/-- The OPEN group is sealed, and there is no BROKEN group to discard then (R92, R93). -/
theorem State.epochClose_open (hg : s.youngest w = some g) (ho : g.state = .opened) :
    s.epochClose w = (s.windowTrigger w).setGroups w ((s.win w).groups.dropLast ++ [g.sealedBy .epoch none none]) := by
  rw [State.epochClose, State.sealOpen_eq hg ho]
  exact State.discardYoungestIf_none (fun y hy => by
    rw [State.youngest, State.win_setGroups, List.getLast?_concat, Option.mem_some_iff] at hy
    simp [← hy, Group.sealedBy]) _

/-- The BROKEN group is discarded (R93). -/
theorem State.epochClose_broken (hg : s.youngest w = some g) (hb : g.state = .broken) :
    s.epochClose w = s.discardGroup w g .epochBroken := by
  have hseal : s.sealOpen w .epoch none none = s := by
    rw [State.sealOpen, hg]
    exact if_neg (by rw [hb]; decide)
  rw [State.epochClose, hseal, ← hb, State.discardYoungestIf_some hg]

theorem State.releaseAll_empty (h : (s.win w).groups = []) (r : Option (BitVec 16)) : s.releaseAll w r = s :=
  if_neg (by simp [State.holdsSealed, h])

end

/-! ### A window with one group (R92 to R94, R103) -/

section
variable {s : State} {w : WIdx} {g : Group} {e : BitVec 16} (hgroups : (s.win w).groups = [g])
include hgroups

/-- The only group, SEALED and with entries, is released and taken. -/
theorem State.releaseAll_single (hs : g.state = .sealed) (he : g.entryCount ≠ 0) (hf : (s.win w).state ≠ .frozen)
    (ho : s.hasOrphan w = false) (r : Option (BitVec 16)) : s.releaseAll w r = s.setGroups w [{ g.taken with releaseEpoch := r }] := by
  rw [State.releaseAll_taken (by rw [State.oldest, hgroups]; rfl) hs he hf ho, hgroups]
  rfl

theorem State.epochAt_sealed (hon : (s.win w).state = .online) (ht : (s.win w).trigger = .markerEpoch) (hs : g.state = .sealed)
    (he : g.entryCount ≠ 0) (ho : s.hasOrphan w = false) :
    s.epochAt e w = s.setGroups w [{ g.taken with releaseEpoch := some e }] := by
  rw [State.epochAt_markerEpoch (by rw [hon]; rfl) ht, State.releaseAll_single hgroups hs he (by rw [hon]; decide) ho]

theorem State.epochAt_open (hon : (s.win w).state = .online) (ht : (s.win w).trigger = .epoch) (hopen : g.state = .opened)
    (he : g.entryCount ≠ 0) (ho : s.hasOrphan w = false) :
    s.epochAt e w = (s.windowTrigger w).setGroups w [{ (g.sealedBy .epoch none none).taken with releaseEpoch := some e }] := by
  have hclose := State.epochClose_open (s := s) (w := w) (by rw [State.youngest, hgroups]; rfl) hopen
  rw [hgroups] at hclose
  rw [State.epochAt_epoch (by rw [hon]; rfl) ht, hclose,
    State.releaseAll_single (s := (s.windowTrigger w).setGroups w ([g].dropLast ++ [g.sealedBy .epoch none none]))
      (g := g.sealedBy .epoch none none) (by rw [State.win_setGroups]; rfl) rfl he
      (by rw [State.win_setGroups, State.win_windowTrigger, hon]; decide) ho,
    State.setGroups_setGroups]

theorem State.epochAt_broken (hon : (s.win w).state = .online) (ht : (s.win w).trigger = .epoch) (hb : g.state = .broken)
    (hslots : ∀ y ∈ s.slots, y.ofGroup w g.number = false) (hp : g.pendingMarker = none) :
    s.epochAt e w = ((s.post w (evGroupDiscarded w g .epochBroken)).windowTrigger w).setWin w
      { s.win w with
        groups := []
        stats := { (s.win w).stats with discarded := (s.win w).stats.discarded + 1 } } := by
  rw [State.epochAt_epoch (by rw [hon]; rfl) ht, State.epochClose_broken (by rw [State.youngest, hgroups]; rfl) hb,
    State.discardGroup_bare hslots hp, hgroups, List.erase_cons_head, State.releaseAll_empty (by rw [State.win_setWin_same])]

end

/-! ### What a delivery leaves alone -/

/-- Nothing has changed but the epoch events on their way and what a write group can touch. -/
def EpochFrame (s t : State) : Prop := ({ s with epochDue := t.epochDue } : State).sameOutsideGroups t

theorem EpochFrame.refl (s : State) : EpochFrame s s := rfl

theorem EpochFrame.trans {s t u : State} (h : EpochFrame s t) (k : EpochFrame t u) : EpochFrame s u := by
  refine Eq.trans k ?_
  rw [h]

theorem EpochFrame.resetAsserted {s t : State} (h : EpochFrame s t) : t.resetAsserted = s.resetAsserted :=
  Eq.trans (congrArg State.resetAsserted h) rfl

/-- The effect at a window leaves the events on their way alone. -/
theorem State.epochDue_epochAt (s : State) (e : BitVec 16) (w : WIdx) : (s.epochAt e w).epochDue = s.epochDue :=
  Eq.trans (congrArg State.epochDue (same_closed.epochAt s e w)) rfl

theorem EpochFrame.epochAt (s : State) (e : BitVec 16) (w : WIdx) : EpochFrame s (s.epochAt e w) := by
  rw [EpochFrame, State.epochDue_epochAt]
  exact same_closed.epochAt s e w

theorem OnlyAt.discardYoungestIf {w : WIdx} (s : State) (st : GState) (c : Cause) : OnlyAt w s (s.discardYoungestIf w st c) := by
  unfold State.discardYoungestIf
  split
  · split
    · exact .discardGroup s _ c
    · exact .refl s
  · exact .refl s

theorem OnlyAt.epochAt {w : WIdx} (s : State) (e : BitVec 16) : OnlyAt w s (s.epochAt e w) := by
  unfold State.epochAt State.epochAct
  split
  · split
    · exact .refl s
    · exact .releaseAll s _
    · exact ((OnlyAt.sealOpen s _ _ _).trans (.discardYoungestIf _ _ _)).trans (.releaseAll _ _)
  · exact .refl s

section
variable (s : State) (v w : WIdx)

theorem EpochFrame.epochDeliver : EpochFrame s (s.epochDeliver v) := by
  unfold State.epochDeliver
  split
  · exact .refl s
  · next rest _ => exact EpochFrame.trans (t := s.setDue v rest) rfl (.epochAt _ _ v)

/-- A delivery takes the oldest event on its way to its window, and no other (R90). -/
theorem State.due_epochDeliver : (s.epochDeliver v).due w = if w = v then (s.due w).tail else s.due w := by
  cases hdue : s.due v with
  | nil =>
    rw [State.epochDeliver_none hdue]
    split
    · next h => rw [h, hdue]; rfl
    · rfl
  | cons e later =>
    rw [State.epochDeliver_cons hdue, State.due, State.epochDue_epochAt, ← State.due, State.due_setDue]
    split
    · next h => rw [h, hdue]; rfl
    · rfl

/-- No delivery, there or elsewhere, touches a window at which an epoch event has no effect. -/
theorem State.win_epochDeliver (h : s.epochInert w) : (s.epochDeliver v).win w = s.win w := by
  unfold State.epochDeliver
  split
  · rfl
  · next rest _ =>
    by_cases hvw : w = v
    · subst hvw
      rw [State.epochAt_inert (s := s.setDue w rest) h]
      rfl
    · exact OnlyAt.epochAt (s.setDue v rest) _ w hvw

end

/-! ### The windows one after another (R90) -/

section
variable (l : List WIdx) (s : State)

theorem EpochFrame.epochDelivers : EpochFrame s (l.foldl State.epochDeliver s) := by
  induction l generalizing s with
  | nil => exact .refl s
  | cons v l ih => exact (EpochFrame.epochDeliver s v).trans (ih _)

/-- At each window as many events are taken as the list names it. -/
theorem State.due_epochDelivers (w : WIdx) : (l.foldl State.epochDeliver s).due w = (s.due w).drop (l.count w) := by
  induction l generalizing s with
  | nil => rfl
  | cons v l ih =>
    rw [List.foldl_cons, ih, State.due_epochDeliver]
    by_cases h : w = v
    · rw [if_pos h, h, List.count_cons_self, List.drop_tail]
    · rw [if_neg h, List.count_cons_of_ne (Ne.symm h)]

theorem State.win_epochDelivers {w : WIdx} (h : s.epochInert w) : (l.foldl State.epochDeliver s).win w = s.win w := by
  induction l generalizing s with
  | nil => rfl
  | cons v l ih =>
    have hwin := s.win_epochDeliver v w h
    rw [List.foldl_cons, ih _ (by rwa [State.epochInert, hwin]), hwin]

end

/-- No EPOCH_EVENT touches RESET_N. -/
theorem State.epochEvent_resetAsserted (s : State) (d : EpochDelivery) : (s.epochEvent d).resetAsserted = s.resetAsserted :=
  (EpochFrame.epochDelivers d.windows _).resetAsserted.trans (s.epochSamples_resetAsserted d.levels)

/-! ### How the commands spell it (log 9, log 10) -/

section
variable {s : State} (hr : s.resetAsserted = false)
include hr

/-- The taking of a command that goes on where another ends. -/
theorem exec_epochEvent_then {d d₁ d₂ : EpochDelivery} (h : s.epochEvent d = (s.epochEvent d₁).epochEvent d₂) {t : State}
    (ht : exec (.epochEvent d₁) s = .next t) : exec (.epochEvent d) s = exec (.epochEvent d₂) t := by
  rw [exec_epochEvent hr] at ht
  cases ht
  rw [exec_epochEvent hr, exec_epochEvent ((s.epochEvent_resetAsserted d₁).trans hr), h]

/-- A step on an empty queue delivers at the lowest window that an event is on its way to. -/
theorem step_delivers {w : WIdx} (hpending : s.pending = []) (hdue : s.due w ≠ []) (hlow : ∀ v < w, s.due v = []) :
    step s = exec (.epochEvent ⟨[], [w]⟩) s := by
  have hfirst : s.dueWindow? = some w := by
    rw [State.dueWindow?, hr, if_neg (by decide), find_finRange_eq_some]
    exact ⟨by simpa using hdue, fun v hv => by simp [hlow v hv]⟩
  rw [step_idle hpending, State.idle, hfirst, exec_epochEvent hr]
  rfl

/-- One edge, delivered to every window (R88 to R91). -/
theorem exec_epochEdge_everywhere {ws : List WIdx} (hnodup : ws.Nodup) (hall : ∀ w : WIdx, w ∈ ws ∧ s.due w = []) :
    ∃ t : State, exec (.epochEvent ⟨[false, true], ws⟩) s = .next t ∧ (∀ w : WIdx, t.due w = []) ∧
      (∀ w : WIdx, s.epochInert w → t.win w = s.win w) ∧
      ({ s with epochCounter := s.epochCounter + 1, epochLevel := true, epochDue := t.epochDue } : State).sameOutsideGroups t := by
  refine ⟨ws.foldl State.epochDeliver s.epochEdge, by rw [exec_epochEvent hr, s.epochEvent_low_high], fun w => ?_, fun w hinert => ?_, ?_⟩
  · obtain ⟨hw, hdue⟩ := hall w
    rw [State.due_epochDelivers, State.due_epochEdge, hdue, List.count_eq_one_of_mem hnodup hw]
    rfl
  · exact State.win_epochDelivers ws s.epochEdge hinert
  · exact EpochFrame.epochDelivers ws s.epochEdge

end

/-- While RESET_N is asserted nothing is sampled and nothing is taken (R88). -/
theorem exec_epochEvent_reset {s : State} (hr : s.resetAsserted = true) (d : EpochDelivery) : exec (.epochEvent d) s = .next s := by
  rw [exec, execEpochEvent, hr]
  rfl

/-- Settles O38: the samples, the order of the takings and the frame of an edge; RESET_N and its release; the effect at one window. -/
theorem epochEvent : Obligations.EpochEvent := by
  refine ⟨fun s hr => ⟨fun high => ?_, fun ls high t ht => ?_, fun w hdue => ?_, fun ls ws w t ht => ?_, fun w hp hdue hlow => ?_,
    fun ws hnodup hall => ?_⟩, fun s hr => ⟨fun d => ?_, fun high t ht => ?_⟩, fun s w e later hr hdue => ?_⟩
  · rw [exec_epochEvent hr]
    exact congrArg _ (s.epochSample_eq high)
  · exact exec_epochEvent_then hr (s.epochEvent_snoc_level ls high) ht
  · rw [exec_epochEvent hr]
    exact congrArg _ (State.epochDeliver_none hdue)
  · exact exec_epochEvent_then hr (s.epochEvent_snoc_window ls ws w) ht
  · exact step_delivers hr hp hdue hlow
  · exact exec_epochEdge_everywhere hr hnodup hall
  · exact exec_epochEvent_reset hr d
  · rw [exec, execPowerOnResetRelease, if_pos hr] at ht
    cases ht
    refine ⟨fun hhigh n => ?_, _, (exec_epochEvent rfl _).trans (congrArg _ (State.epochEvent_low_high _ [])), rfl,
      fun w => State.due_epochEdge _ w⟩
    rw [exec_epochEvent rfl, State.epochEvent_replicate_high _ hhigh]
  · have hexec : exec (.epochEvent ⟨[], [w]⟩) s = .next ((s.setDue w later).epochAt e w) :=
      (exec_epochEvent hr _).trans (congrArg _ (State.epochDeliver_cons hdue))
    refine ⟨fun hinert => ?_, fun g hon hgroups he ho => ⟨fun ht hs => ?_, fun ht hopen => ?_, fun ht hb hslots hp => ?_⟩⟩
    · rw [hexec, State.epochAt_inert (s := s.setDue w later) hinert]
      rfl
    · rw [hexec, State.epochAt_sealed (s := s.setDue w later) hgroups hon ht hs (he (by rw [hs]; decide)) ho]
      rfl
    · rw [hexec, State.epochAt_open (s := s.setDue w later) hgroups hon ht hopen (he (by rw [hopen]; decide)) ho]
      rfl
    · rw [hexec, State.epochAt_broken (s := s.setDue w later) hgroups hon ht hb hslots hp, State.windowTrigger, State.post_holds]
      rfl

end Sys2Proof.Machine
end

section
/-! O24, O25. The read merge unit (R128 to R133): the groups a read sees, the byte its snapshot takes for each lane, and what becomes
of a read that is merged. -/

namespace Sys2Proof.Machine

/-! ### Visible groups (R129) -/

/-- The table of R129: released or later for every reader, OPEN or SEALED for the owner alone. -/
theorem Group.visible_iff (g : Group) (src : Source) :
    g.visible src = true ↔
      (g.state = .released ∨ g.state = .draining ∨ g.state = .marking ∨ g.state = .faulted) ∨
        ((g.state = .opened ∨ g.state = .sealed) ∧ g.owner = src) := by
  cases h : g.state <;> simp [Group.visible, h]

/-! ### What one group offers a read (R130, R131) -/

/-- The layer of group `g` for a read at line `l` of window `w`. -/
def State.layerOf (s : State) (w : WIdx) (l : Line) (g : Group) : Layer := ⟨s.entryAt? w g.number l, g.markerData⟩

/-- A read sees the layers of the visible groups, youngest first. -/
theorem State.layers_eq (s : State) (w : WIdx) (src : Source) (l : Line) :
    s.layers w src l = ((s.win w).groups.filter fun g => g.visible src).reverse.map (s.layerOf w l) := rfl

theorem State.dataByte_layerOf {s : State} {w : WIdx} {l : Line} {g : Group} {e : Entry} {i : Fin 32}
    (he : s.entryAt? w g.number l = some e) (hlane : e.valid.getLsbD i.val = true) : (s.layerOf w l g).dataByte i = some e.data[i] := by
  simp [State.layerOf, Layer.dataByte, he, Entry.laneByte, hlane]

/-- A group offers no byte in a lane that no entry of it at the line holds. -/
theorem State.dataByte_layerOf_none {s : State} {w : WIdx} {l : Line} {g : Group} {i : Fin 32}
    (h : ¬∃ e ∈ s.entryAt? w g.number l, e.valid.getLsbD i.val = true) : (s.layerOf w l g).dataByte i = none := by
  cases he : s.entryAt? w g.number l with
  | none => simp [State.layerOf, Layer.dataByte, he]
  | some e =>
    have hlane : ¬e.valid.getLsbD i.val = true := fun hlane => h ⟨e, he, hlane⟩
    simp only [State.layerOf, Layer.dataByte, he, Entry.laneByte, if_neg hlane]

theorem State.markerByte_layerOf {g : Group} {d : MarkerData} (hd : g.markerData = some d) (s : State) (w : WIdx) (l : Line)
    (lg : Fin 4) (i : Fin 32) : (s.layerOf w l g).markerByte lg i = some (markerLine lg d)[i] := by
  simp [State.layerOf, Layer.markerByte, hd]

theorem State.markerByte_layerOf_none {g : Group} (hd : g.markerData = none) (s : State) (w : WIdx) (l : Line) (lg : Fin 4)
    (i : Fin 32) : (s.layerOf w l g).markerByte lg i = none := by
  simp [State.layerOf, Layer.markerByte, hd]

/-- The marker lanes of group `lg` are the eight lanes from `8 * lg` on (R20). -/
theorem markerLanes_getLsbD_iff : ∀ (lg : Fin 4) (i : Fin 32),
    (markerLanes lg).getLsbD i.val = true ↔ 8 * lg.val ≤ i.val ∧ i.val < 8 * lg.val + 8 := by decide

/-- A marker lane carries the byte of the marker data that stands at its place among the marker lanes (R70, R131). -/
theorem markerLine_getElem {lg : Fin 4} {i : Fin 32} (h : (markerLanes lg).getLsbD i.val = true) (d : MarkerData) :
    ∃ j : Fin 8, i.val % 8 = j.val ∧ (markerLine lg d)[i] = d[j] := by
  have hlane := (markerLanes_getLsbD_iff lg i).1 h
  refine ⟨⟨i.val - 8 * lg.val, by omega⟩, by dsimp only; omega, ?_⟩
  simp [markerLine, hlane]

/-! ### The search from the youngest visible group (R130, R131) -/

section
variable {s : State} {w : WIdx} {src : Source} {l : Line} {f : Layer → Option Byte}

/-- Records of which no visible one offers a byte leave the search empty-handed. -/
theorem State.findSome_visible_none {q : List Group} (h : ∀ g ∈ q, g.visible src = true → f (s.layerOf w l g) = none) :
    ((q.filter fun g => g.visible src).reverse.map (s.layerOf w l)).findSome? f = none := by
  rw [List.findSome?_map, List.findSome?_eq_none_iff]
  simpa using h

/-- A lane that no visible group offers is uncovered. -/
theorem State.findSome_layers_none (h : ∀ g ∈ (s.win w).groups, g.visible src = true → f (s.layerOf w l g) = none) :
    (s.layers w src l).findSome? f = none :=
  State.findSome_visible_none h

/-- The byte is that of the youngest visible group that offers one. -/
theorem State.findSome_layers {older younger : List Group} {g : Group} {b : Byte} (hq : (s.win w).groups = older ++ g :: younger)
    (hg : g.visible src = true) (hb : f (s.layerOf w l g) = some b)
    (hyounger : ∀ y ∈ younger, y.visible src = true → f (s.layerOf w l y) = none) : (s.layers w src l).findSome? f = some b := by
  have hnone := State.findSome_visible_none hyounger
  rw [State.layers_eq, hq, List.filter_append, List.filter_cons, if_pos hg, List.reverse_append, List.reverse_cons, List.map_append,
    List.map_append, List.findSome?_append, List.findSome?_append, hnone]
  simp [hb]

end

/-! ### The lanes of the snapshot (R130, R131) -/

/-- Lane `i` of the snapshot: looked up in the layers if the read enables it. -/
theorem State.snapshot_getElem (s : State) (w : WIdx) (src : Source) (l : Line) (lanes : Lanes) (i : Fin 32) :
    (s.snapshot w src l lanes)[i] = if lanes.getLsbD i.val then (s.win w).snapByte l (s.layers w src l) i else none := by
  simp [State.snapshot]

/-- A lane that is no marker lane of the line is looked up in the entries alone (R130). -/
theorem Window.snapByte_entries {x : Window} {l : Line} {i : Fin 32}
    (h : ¬∃ m ∈ x.marker, l = x.markerLine m ∧ (markerLanes m.laneGroup).getLsbD i.val = true) (ls : List Layer) :
    x.snapByte l ls i = ls.findSome? fun y => y.dataByte i := by
  cases hm : x.marker with
  | none => simp [Window.snapByte, hm]
  | some m =>
    have hlane : ¬(l = x.markerLine m ∧ (markerLanes m.laneGroup).getLsbD i.val = true) := fun hlane => h ⟨m, hm, hlane⟩
    simp only [Window.snapByte, hm, if_neg hlane]

/-- A marker lane of the marker line is looked up in the marker data alone (R131). -/
theorem Window.snapByte_marker {x : Window} {l : Line} {m : MarkerConfig} {i : Fin 32} (hm : x.marker = some m) (hl : l = x.markerLine m)
    (hlane : (markerLanes m.laneGroup).getLsbD i.val = true) (ls : List Layer) :
    x.snapByte l ls i = ls.findSome? fun y => y.markerByte m.laneGroup i := by
  simp only [Window.snapByte, hm, if_pos (And.intro hl hlane)]

/-- Settles O24: the lane is looked up in the entries or in the marker data, and the youngest visible group that has it gives it. -/
theorem snapshotLanes : Obligations.SnapshotLanes := by
  refine ⟨Group.visible_iff, fun s w src l lanes i => ⟨fun hi => ?_, fun hi hentry => ?_, ?_⟩⟩
  · rw [State.snapshot_getElem, if_neg (ne_true_of_eq_false hi)]
  · rw [State.snapshot_getElem, if_pos hi, Window.snapByte_entries hentry]
    exact ⟨fun _ _ _ _ hq hg he hlane hyounger => State.findSome_layers hq hg (State.dataByte_layerOf he hlane)
        fun y hy hv => State.dataByte_layerOf_none (hyounger y hy hv),
      fun h => State.findSome_layers_none fun g hg hv => State.dataByte_layerOf_none (h g hg hv)⟩
  · rintro hi ⟨m, hm, hl, hlane⟩
    rw [State.snapshot_getElem, if_pos hi, Window.snapByte_marker hm hl hlane]
    refine ⟨fun _ _ _ d hq hg hd hyounger => ?_,
      fun h => State.findSome_layers_none fun g hg hv => State.markerByte_layerOf_none (h g hg hv) s w l _ i⟩
    obtain ⟨j, hj, hbyte⟩ := markerLine_getElem hlane d
    exact ⟨j, hj, hbyte ▸ State.findSome_layers hq hg (State.markerByte_layerOf hd s w l _ i)
      fun y hy hv => State.markerByte_layerOf_none (hyounger y hy hv) s w l _ i⟩

/-! ### The merged read (R132, R133) -/

theorem Snapshot.covers_iff (p : Snapshot) (lanes : Lanes) :
    Snapshot.covers p lanes = true ↔ ∀ i : Fin 32, lanes.getLsbD i.val = true → (p[i]).isSome = true := by
  simp [Snapshot.covers, imp_iff_not_or]

/-- One enabled lane without a byte leaves the lane set uncovered (R133). -/
theorem Snapshot.not_covers {p : Snapshot} {lanes : Lanes} {i : Fin 32} (hi : lanes.getLsbD i.val = true) (hp : p[i] = none) :
    ¬Snapshot.covers p lanes = true := by
  rw [Snapshot.covers_iff]
  intro h
  simpa [hp] using h i hi

/-- The bytes of a read answered from its snapshot: 0 in a lane it does not hold or the read does not enable (log 20). -/
theorem Snapshot.overlaid_zero (p : Snapshot) (lanes : Lanes) :
    Snapshot.overlaid p lanes LineData.zero =
      Vector.ofFn fun i : Fin 32 => if lanes.getLsbD i.val then (p[i]).getD 0#8 else 0#8 := by
  simp [Snapshot.overlaid, LineData.zero]

/-- The snapshot does not depend on the record that the read has taken. -/
theorem State.snapshot_intake (s : State) (t : RecNo) (x : Transit) (w : WIdx) (src : Source) (l : Line) (lanes : Lanes) :
    (s.intake t x).snapshot w src l lanes = s.snapshot w src l lanes := rfl

theorem modRcd_intake (s : State) (t : RecNo) (x : Transit) (f : Transit → Transit) :
    (s.intake t x).modRcd t f = s.intake t (f x) := by
  rw [State.modRcd, rcd_intake, if_pos rfl, Option.map_some, setRcd_intake]

section
variable {s : State} {w : WIdx} {src : Source} {l : Line} {lanes : Lanes}

/-- A read that its snapshot covers is answered at once (R132). -/
theorem takeRead_covered (h : Snapshot.covers (s.snapshot w src l lanes) lanes = true) (t : RecNo) (x : Transit) :
    (s.intake t x).takeRead t w src l lanes =
      s.intake t
        { x.answered .done (some (Snapshot.overlaid (s.snapshot w src l lanes) lanes LineData.zero)) with
          snapshot := some (s.snapshot w src l lanes) } := by
  simp only [State.takeRead, State.snapshot_intake, if_pos h, modRcd_intake]

/-- A read that its snapshot does not cover joins the pending list with it (R133). -/
theorem takeRead_uncovered (h : ¬Snapshot.covers (s.snapshot w src l lanes) lanes = true) (t : RecNo) (x : Transit) :
    (s.intake t x).takeRead t w src l lanes =
      { s.intake t { x with wait := .credit, snapshot := some (s.snapshot w src l lanes) } with fwd := s.fwd ++ [t] } := by
  simp only [State.takeRead, State.snapshot_intake, if_neg h, modRcd_intake]
  rfl

end

/-- Settles O25: the read merge unit takes the read, and the lane set of the snapshot decides. -/
theorem mergeRead : Obligations.MergeRead := by
  intro s r w hc hk hw hl p x
  obtain ⟨t, hfree, hexec⟩ := read_eq s r w hc hk hw hl
  refine ⟨t, hfree, fun hcovered => ?_, ?_⟩
  · rw [hexec, takeRead_covered ((Snapshot.covers_iff p r.lanes).2 hcovered), Snapshot.overlaid_zero]
    rfl
  · rintro ⟨i, hi, hp⟩
    rw [hexec, takeRead_uncovered (Snapshot.not_covers hi hp)]

end Sys2Proof.Machine
end

section
/-! O35. The expiry of a hold (R151), and the break of the OPEN group that its source owns where the write waits for the area (R152). -/

namespace Sys2Proof.Machine

theorem exec_holdExpiry {s : State} (hreset : s.resetAsserted = false) (k : HoldNo) :
    exec (.holdExpiry k) s = .next (s.holdExpiry k) := by
  rw [exec, execHoldExpiry, hreset]
  rfl

section
variable {s : State} {h : Held}

theorem State.holdExpiry_of_mem (hmem : h ∈ s.holds) (hslots : (s.holds.map Held.slot).Nodup) (hreached : s.reached h.deadline = true) :
    s.holdExpiry h.slot = s.expireHeld h := by
  rw [State.holdExpiry, s.heldAt?_of_mem h hslots hmem]
  exact if_pos hreached

/-! ### What every expiry does (R151) -/

/-- A held write that ends leaves the hold list, and its record is answered. -/
theorem State.endWrite_held {u : RecNo} (hu : s.groupRcd? h.source h.tag = some u) (res : Result) :
    s.endWrite h.toWrite res = (s.dropHold h.slot).answerRcd u res none := by
  have hfind : (s.dropHold h.slot).groupRcd? h.source h.tag = some u := hu
  change (s.dropHold h.slot).answerWrite h.source h.tag res = _
  rw [State.answerWrite, hfind]

/-- The expiry of held write `h` but for the break of R152: the first three acts of `State.expireHeld`. -/
def State.holdRefused (s : State) (h : Held) : State :=
  ((s.endWrite h.toWrite .refused).post h.window (evHoldExpired h.window h.source h.line)).bumpRefused h.window

/-- An expiry leaves the group queues alone, so R152 sees the groups of the state before it. -/
theorem State.youngest_holdRefused (s : State) (h : Held) (w : WIdx) : (s.holdRefused h).youngest w = s.youngest w := by
  rw [State.youngest, State.holdRefused, State.bumpRefused, State.win_modWin]
  split
  · next hw => simp [State.youngest, hw]
  · simp [State.youngest]

/-! ### What an AREA_WAIT expiry adds (R152) -/

/-- The source of held write `h` owns its window's OPEN group. -/
def State.ownsOpen (s : State) (h : Held) : Prop := ∃ g ∈ s.youngest h.window, g.state = .opened ∧ g.owner = h.source

theorem State.ownsOpen_holdRefused : (s.holdRefused h).ownsOpen h ↔ s.ownsOpen h := by
  rw [State.ownsOpen, State.youngest_holdRefused, State.ownsOpen]

theorem State.areaWaitExpired_owner (hown : s.ownsOpen h) :
    s.areaWaitExpired h = s.breakOpen h.window .areaWaitExpired (some h.line) := by
  obtain ⟨g, hg, hopen⟩ := hown
  rw [Option.mem_def] at hg
  rw [State.areaWaitExpired, hg]
  exact if_pos hopen

theorem State.areaWaitExpired_of_not_owner (hown : ¬s.ownsOpen h) : s.areaWaitExpired h = s := by
  unfold State.areaWaitExpired
  split
  · next g hg => exact if_neg fun hopen => hown ⟨g, hg, hopen⟩
  · rfl

theorem State.expireHeld_areaWait (hwhy : h.reason = .areaWait) : s.expireHeld h = (s.holdRefused h).areaWaitExpired h := by
  rw [State.expireHeld, hwhy]
  rfl

theorem State.expireHeld_of_not_areaWait (hwhy : h.reason ≠ .areaWait) : s.expireHeld h = s.holdRefused h := by
  cases hreason : h.reason with
  | areaWait => exact absurd hreason hwhy
  | conflict => rw [State.expireHeld, hreason]; rfl
  | queueFull => rw [State.expireHeld, hreason]; rfl

theorem State.expireHeld_breaks (hwhy : h.reason = .areaWait) (hown : s.ownsOpen h) :
    s.expireHeld h = (s.holdRefused h).breakOpen h.window .areaWaitExpired (some h.line) := by
  rw [State.expireHeld_areaWait hwhy, State.areaWaitExpired_owner (State.ownsOpen_holdRefused.2 hown)]

theorem State.expireHeld_no_break (hkept : h.reason ≠ .areaWait ∨ ¬s.ownsOpen h) : s.expireHeld h = s.holdRefused h := by
  by_cases hwhy : h.reason = .areaWait
  · have hown : ¬s.ownsOpen h := hkept.resolve_left (not_not_intro hwhy)
    rw [State.expireHeld_areaWait hwhy, State.areaWaitExpired_of_not_owner (mt State.ownsOpen_holdRefused.1 hown)]
  · exact State.expireHeld_of_not_areaWait hwhy

end

/-- Settles O35: the refusal of the write, then the break if the write waits for the area and its source owns the OPEN group. -/
theorem holdExpires : Obligations.HoldExpires := by
  intro s h u hreset hslots hmem hdeadline hu expired ownsOpen
  have hreached : s.reached h.deadline = true := by rw [hdeadline, State.reached_now]
  have hexec : exec (.holdExpiry h.slot) s = .next (s.expireHeld h) := by
    rw [exec_holdExpiry hreset, State.holdExpiry_of_mem hmem hslots hreached]
  have hexpired : s.holdRefused h = expired := by
    rw [State.holdRefused, State.endWrite_held hu]
    rfl
  refine ⟨fun hkept => ?_, fun hwhy hown => ?_⟩
  · rw [hexec, State.expireHeld_no_break hkept, hexpired]
  · rw [hexec, State.expireHeld_breaks hwhy hown, hexpired]

end Sys2Proof.Machine
end

section
/-! O5, O23, O47. The event unit: what an offer and a post do (R160 to R162), POP_EVENTS (R164), and the law of the event queue, which
every step keeps (R158, R161). -/

namespace Sys2Proof.Machine

/-! ### Offers and posts (R160 to R162) -/

section
variable {s : State} {w : WIdx} {e : EventBody}

theorem State.offer_of_room (hroom : s.events.length < 32) :
    s.offer e = { s with events := s.events ++ [⟨s.nextSeq, e, s.lost⟩], nextSeq := s.nextSeq + 1, lost := 0 } :=
  if_pos hroom

theorem State.offer_of_full (hfull : 32 ≤ s.events.length) :
    s.offer e = { s with lost := if s.lost = 255 then 255 else s.lost + 1 } :=
  if_neg (Nat.not_lt.2 hfull)

theorem State.post_of_enabled (hkind : (s.win w).enables.getLsbD e.kind.code = true) : s.post w e = s.offer e :=
  if_pos hkind

theorem State.post_of_disabled (hkind : (s.win w).enables.getLsbD e.kind.code = false) : s.post w e = s :=
  if_neg (ne_true_of_eq_false hkind)

end

/-- Settles O23: the room in the queue decides an offer, the window's enables decide whether a post is one. -/
theorem eventPosting : Obligations.EventPosting := fun _ _ _ =>
  ⟨State.offer_of_room, State.offer_of_full, State.post_of_enabled, State.post_of_disabled⟩

/-! ### POP_EVENTS (R164, R183) -/

/-- The result by the number of records popped (R183). -/
theorem popResult_take (l : List Event) (n : Nat) :
    popResult n (l.take n) = BitVec.ofNat 8 (min n l.length) :: (((l.take (min n l.length)).map Event.bytes).flatten ++
      List.replicate (13 * (n - min n l.length)) 0#8) := by
  rw [popResult, List.length_take, ← List.take_eq_take_min]
  rfl

section
variable {s : State} {n : Nat}

/-- POP_EVENTS passes the port in every state that is ready for a frame, a soft reset in progress or not (R173). -/
theorem exec_popEvents (hport : s.portTakes) (n : Byte) :
    exec (.popEvents n) s = .next ((s.popEvents n.toNat).state.withReply (s.popEvents n.toNat).reply) := by
  rw [exec_port_eq (.popEvents n) rfl (fun _ h => by cases h)]
  exact take_act s _ _ _ (canReceive_of_portTakes s _ hport) fun h => by cases h

theorem State.popEvents_badValue (hn : ¬(1 ≤ n ∧ n ≤ 8)) : s.popEvents n = answer .badValue s := if_neg hn

theorem State.popEvents_state (hn : 1 ≤ n ∧ n ≤ 8) : (s.popEvents n).state = { s with events := s.events.drop n } := by
  rw [State.popEvents, if_pos hn]

/-- NONE and OK are both followed by the result (R174). -/
theorem State.popEvents_reply (hn : 1 ≤ n ∧ n ≤ 8) :
    (s.popEvents n).reply = (if s.events = [] then 0x02#8 else 0x00#8) :: popResult n (s.events.take n) := by
  rw [State.popEvents, if_pos hn]
  cases hevents : s.events <;> rfl

/-- ALERT_N stays asserted exactly while records are left (R166). -/
theorem State.alertAsserted_drop (hreset : s.resetAsserted = false) (k : Nat) :
    State.alertAsserted { s with events := s.events.drop k } = decide (k < s.events.length) := by
  rw [State.alertAsserted, hreset, Bool.not_false, Bool.and_true, Bool.eq_iff_iff]
  simp

end

/-- Settles O47, by the operand; the records popped are the first `min n length`, and dropping `n` drops just those. -/
theorem popEvents : Obligations.PopEvents := by
  intro s n hport
  refine ⟨fun hbad => ?_, fun hmin hmax => ?_⟩
  · have hn : ¬(1 ≤ n.toNat ∧ n.toNat ≤ 8) := by
      rintro ⟨hmin, hmax⟩
      rcases hbad with rfl | hbad
      · exact absurd hmin (by decide)
      · omega
    rw [exec_popEvents hport, State.popEvents_badValue hn, answer_state, answer_reply]
    rfl
  · intro k t
    have ⟨hreset, _⟩ := hport
    refine ⟨?_, State.alertAsserted_drop hreset k⟩
    have hdrop : s.events.drop n.toNat = s.events.drop k := List.drop_eq_drop_min
    rw [exec_popEvents hport, State.popEvents_state ⟨hmin, hmax⟩, State.popEvents_reply ⟨hmin, hmax⟩, popResult_take, hdrop]
    rfl

/-! ### The law of the event queue (R158, R161) -/

section
variable {s : State}

theorem eventLaw_of_empty (h : s.events = []) : s.eventLaw := by
  rw [State.eventLaw, h]
  exact ⟨Nat.zero_le _, rfl⟩

theorem popEvents_keeps_eventLaw (h : s.eventLaw) (n : Nat) : (s.popEvents n).state.eventLaw := by
  by_cases hn : 1 ≤ n ∧ n ≤ 8
  · rw [State.popEvents_state hn]
    exact eventLaw_drop s n h
  · rw [State.popEvents_badValue hn]
    exact h

/-- A soft reset empties the queue before it records RESET_DONE (R168, R186). -/
theorem softResetCheck_keeps_eventLaw (h : s.eventLaw) : s.softResetCheck.eventLaw := by
  unfold State.softResetCheck
  split
  · exact eventLaw_offer _ evResetDone (eventLaw_of_empty rfl)
  · exact h

/-- WRITE_WINDOW posts nothing. -/
theorem eventUnit_writeWindow (w : WIdx) (op : WindowOperands) : (s.writeWindow w op).state.eventUnit = s.eventUnit := by
  unfold State.writeWindow State.writeEnables State.configureWindow
  repeat' split
  all_goals rfl

/-- WRITE_AREA posts nothing. -/
theorem eventUnit_writeArea (a : AIdx) (first count : Nat) : (s.writeArea a first count).state.eventUnit = s.eventUnit := by
  unfold State.writeArea
  repeat' split
  all_goals rfl

end

/-- What changes the event unit by posts alone keeps the law. -/
theorem eventLaw_closed : WideClosed fun s t => s.eventLaw → t.eventLaw :=
  posts_closed.keeps State.eventLaw fun _ _ => eventLaw_posts

/-- Every command keeps the law: it posts events, pops the oldest, or empties the queue. -/
theorem exec_keeps_eventLaw {c : Instr} {s t : State} (hexec : exec c s = .next t) (h : s.eventLaw) : t.eventLaw :=
  eventLaw_closed.exec (fun _ => softResetCheck_keeps_eventLaw) (fun _ _ => eventLaw_of_empty rfl)
    (fun _ n hs => popEvents_keeps_eventLaw hs n) (fun _ w op => eventLaw_congr (eventUnit_writeWindow w op))
    (fun _ a first count => eventLaw_congr (eventUnit_writeArea a first count)) c s t hexec h

/-- Settles O5: every command keeps the law, and so does a step on an empty queue, which only posts. -/
theorem stepKeepsEventLaw : Obligations.StepKeepsEventLaw := fun s t h hstep =>
  eventLaw_closed.step s t (fun _ _ _ => exec_keeps_eventLaw) hstep h

end Sys2Proof.Machine
end

section
/-! O44, O45. IDENTIFY and the reads of the window, area and slot tables (R173, R177, R179, R182). -/

namespace Sys2Proof.Machine

/-! ### A permitted command -/

/-- A command of the permitted set that passes the port's checks places its answer, a soft reset in progress or not (R173). -/
theorem exec_permitted {s : State} {c : Instr} (hport : s.portTakes) (hc : c.isPortCommand = true) (hperm : c.isPermitted = true)
    (hk : ∀ code, c = .badCommand code → knownCodes.contains code = false) (hcheck : Instr.portCheck c = none) :
    exec c s = .next ((s.portAnswer c).state.withReply (s.portAnswer c).reply) := by
  rw [exec_port_eq c hc hk, hcheck, hperm]
  exact take_act s c _ _ (canReceive_of_portTakes s _ hport) fun h => by cases h

/-- A command of the permitted set that fails one of the port's checks gets that check's status and changes nothing (R173). -/
theorem exec_permitted_failed {s : State} {c : Instr} {st : Status} (hport : s.portTakes) (hc : c.isPortCommand = true)
    (hperm : c.isPermitted = true) (hk : ∀ code, c = .badCommand code → knownCodes.contains code = false)
    (hcheck : Instr.portCheck c = some st) : exec c s = .next (s.withReply [st.code]) := by
  rw [exec_port_eq c hc hk, hcheck, hperm]
  exact take_check s c _ st _ (canReceive_of_portTakes s _ hport) fun h => by cases h

/-! ### The bytes of a word (R169) -/

section
variable {w : Nat} (x : BitVec w)

/-- Byte `i` of a word is its bits from `8 * i` on. -/
theorem leBytes_toNat_div (n k : Nat) :
    leBytes n (x.toNat / 256 ^ k) = (List.range' k n).map fun i => (x >>> (8 * i)).setWidth 8 := by
  induction n generalizing k with
  | zero => rfl
  | succ n ih =>
    have hbyte : BitVec.ofNat 8 (x.toNat / 256 ^ k) = (x >>> (8 * k)).setWidth 8 := by
      apply BitVec.eq_of_toNat_eq
      simp [Nat.shiftRight_eq_div_pow, Nat.pow_mul]
    rw [leBytes, hbyte, Nat.div_div_eq_div_mul, ← Nat.pow_succ, ih]
    rfl

theorem leBytes_toNat (n : Nat) : leBytes n x.toNat = (List.range n).map fun i => (x >>> (8 * i)).setWidth 8 := by
  rw [List.range_eq_range', ← leBytes_toNat_div, Nat.pow_zero, Nat.div_one]

theorem leBytes_two : leBytes 2 x.toNat = [x.setWidth 8, (x >>> 8).setWidth 8] := leBytes_toNat x 2

theorem leBytes_four :
    leBytes 4 x.toNat = [x.setWidth 8, (x >>> 8).setWidth 8, (x >>> 16).setWidth 8, (x >>> 24).setWidth 8] := leBytes_toNat x 4

theorem leBytes_five : leBytes 5 x.toNat =
    [x.setWidth 8, (x >>> 8).setWidth 8, (x >>> 16).setWidth 8, (x >>> 24).setWidth 8, (x >>> 32).setWidth 8] := leBytes_toNat x 5

end

/-- Settles O44: IDENTIFY is permitted and has no operand to check, and its answer leaves the state as it is. -/
theorem identifyResult : Obligations.IdentifyResult := by
  intro s hport
  rw [exec_permitted hport rfl rfl (fun _ h => by cases h) rfl, State.portAnswer, Answer.reply, State.identity, leBytes_two s.epochCounter,
    leBytes_four s.timeCount]
  rfl

/-! ### Reads of consecutive records (R179) -/

/-- The reply to a read of consecutive records of a table of `size` records of `width` bytes, at most `most` of them at once, in the
words of R173 and R179. -/
def tableReply (size width most first count : Nat) (rec : Nat → List Byte) : List Byte :=
  if size ≤ first then [0x81#8]
  else if count = 0 ∨ most < count then [0x82#8]
  else
    [0x00#8, BitVec.ofNat 8 (min count (size - first))] ++ ((List.range' first (min count (size - first))).map rec).flatten ++
      List.replicate (width * (count - min count (size - first))) 0#8

/-- A permitted read whose checks are those of R173 and whose answer is the records from the first on gives the reply of R179. -/
theorem exec_tableRead {s : State} {c : Instr} {size width most first count : Nat} {rec : Nat → List Byte} (hport : s.portTakes)
    (hc : c.isPortCommand = true) (hperm : c.isPermitted = true)
    (hk : ∀ code, c = .badCommand code → knownCodes.contains code = false)
    (hcheck : Instr.portCheck c = rangeCheck first size count most)
    (hanswer : s.portAnswer c = ⟨.ok, tableResult size width first count rec, s⟩) :
    exec c s = .next (s.withReply (tableReply size width most first count rec)) := by
  rw [rangeCheck] at hcheck
  rw [tableReply]
  by_cases hindex : size ≤ first
  · rw [if_pos hindex] at hcheck ⊢
    exact exec_permitted_failed hport hc hperm hk hcheck
  · rw [if_neg hindex] at hcheck ⊢
    by_cases hcount : count = 0 ∨ most < count
    · rw [if_neg (by omega)] at hcheck
      rw [if_pos hcount]
      exact exec_permitted_failed hport hc hperm hk hcheck
    · rw [if_pos (by omega)] at hcheck
      rw [if_neg hcount, exec_permitted hport hc hperm hk hcheck, hanswer]
      rfl

/-- Settles O45: the three reads are one read over three tables. -/
theorem tableReads : Obligations.TableReads := fun _ _ _ _ hport =>
  ⟨exec_tableRead hport rfl rfl (fun _ h => by cases h) rfl rfl,
    exec_tableRead hport rfl rfl (fun _ h => by cases h) rfl rfl,
    exec_tableRead hport rfl rfl (fun _ h => by cases h) rfl rfl,
    fun _ => ⟨window_bytes_length _ _, area_bytes_length _ _, slot_bytes_length _ _⟩⟩

end Sys2Proof.Machine
end

section
/-! SUPPORT. The blocks behind the management port neither read nor change the serial line: what a command of the port makes of the
records is the same with any frame decoder and any level of RESET_N (R1, R171, R173). One lemma for each operation a command is made of:
it commutes with `State.withPort`. -/

namespace Sys2Proof.Machine

/-- `s` with the frame decoder, the result buffer and the level of RESET_N that `p` has: the fields that only the serial side of the port
reads (R169 to R171). -/
def State.withPort (s p : State) : State :=
  { s with
    resetAsserted := p.resetAsserted, frame := p.frame, shift := p.shift, received := p.received, buffer := p.buffer,
    masterRead := p.masterRead }

/-- An answer whose state takes the decoder and the level of RESET_N of `p`. -/
def Answer.withPort (a : Answer) (p : State) : Answer := { a with state := a.state.withPort p }

section
variable {s p : State} {w : WIdx}

theorem withPort_ite {c : Prop} [Decidable c] (t u : State) :
    (if c then t else u).withPort p = if c then t.withPort p else u.withPort p := apply_ite (fun x : State => x.withPort p) c t u

theorem answer_withPort_ite {c : Prop} [Decidable c] (a b : Answer) :
    (if c then a else b).withPort p = if c then a.withPort p else b.withPort p := apply_ite (fun x : Answer => x.withPort p) c a b

/-! ### What the blocks read -/

@[simp] theorem withPort_win : (s.withPort p).win w = s.win w := rfl
@[simp] theorem withPort_area (a : AIdx) : (s.withPort p).area a = s.area a := rfl
@[simp] theorem withPort_holds : (s.withPort p).holds = s.holds := rfl
@[simp] theorem withPort_softReset : (s.withPort p).softReset = s.softReset := rfl
@[simp] theorem withPort_groupRcd (src : Source) (tag : Tag) : (s.withPort p).groupRcd? src tag = s.groupRcd? src tag := rfl
@[simp] theorem withPort_oldest : (s.withPort p).oldest w = s.oldest w := rfl
@[simp] theorem withPort_youngest : (s.withPort p).youngest w = s.youngest w := rfl
@[simp] theorem withPort_canTake (g : Group) : (s.withPort p).canTake w g = s.canTake w g := rfl

/-! ### Updates of one record -/

@[simp] theorem withPort_modWin (f : Window → Window) : (s.withPort p).modWin w f = (s.modWin w f).withPort p := rfl
@[simp] theorem withPort_setArea (a : AIdx) (x : Area) : (s.withPort p).setArea a x = (s.setArea a x).withPort p := rfl
@[simp] theorem withPort_mapCredits (f : Credit → Credit) : (s.withPort p).mapCredits f = (s.mapCredits f).withPort p := rfl
@[simp] theorem withPort_windowTrigger : (s.withPort p).windowTrigger w = (s.windowTrigger w).withPort p := rfl
@[simp] theorem withPort_dropHold (k : HoldNo) : (s.withPort p).dropHold k = (s.dropHold k).withPort p := rfl
@[simp] theorem withPort_setOldest (g : Group) : (s.withPort p).setOldest w g = (s.setOldest w g).withPort p := rfl
@[simp] theorem withPort_removeGroup (g : Group) : (s.withPort p).removeGroup w g = (s.removeGroup w g).withPort p := rfl
@[simp] theorem withPort_bumpPublished : (s.withPort p).bumpPublished w = (s.bumpPublished w).withPort p := rfl
@[simp] theorem withPort_bumpDiscarded : (s.withPort p).bumpDiscarded w = (s.bumpDiscarded w).withPort p := rfl
@[simp] theorem withPort_bumpRefused : (s.withPort p).bumpRefused w = (s.bumpRefused w).withPort p := rfl
@[simp] theorem withPort_releaseSealed (e : Option (BitVec 16)) :
    (s.withPort p).releaseSealed w e = (s.releaseSealed w e).withPort p := rfl

@[simp] theorem withPort_offer (e : EventBody) : (s.withPort p).offer e = (s.offer e).withPort p := by
  rw [State.offer, State.offer, withPort_ite]
  rfl

@[simp] theorem withPort_post (e : EventBody) : (s.withPort p).post w e = (s.post w e).withPort p := by
  rw [State.post, State.post, withPort_ite, withPort_offer]
  rfl

/-! ### Answers, refusals, slots -/

@[simp] theorem withPort_answerWrite (src : Source) (tag : Tag) (r : Result) :
    (s.withPort p).answerWrite src tag r = (s.answerWrite src tag r).withPort p := by
  simp only [State.answerWrite, withPort_groupRcd]
  split <;> rfl

@[simp] theorem withPort_endWrite (x : Write) (r : Result) : (s.withPort p).endWrite x r = (s.endWrite x r).withPort p := by
  simp only [State.endWrite, State.endHold]
  split
  · rw [withPort_dropHold, withPort_answerWrite]
  · rw [withPort_answerWrite]

@[simp] theorem withPort_refuseHeld : (s.withPort p).refuseHeld w = (s.refuseHeld w).withPort p := by
  simp only [State.refuseHeld, withPort_holds]
  refine List.foldl_hom (fun t : State => t.withPort p) fun s h => ?_
  simp only [State.refuseWrite, withPort_endWrite, withPort_post, withPort_bumpRefused]

@[simp] theorem withPort_answerPending (g : Group) (r : Result) :
    (s.withPort p).answerPending g r = (s.answerPending g r).withPort p := by
  simp only [State.answerPending, withPort_answerWrite]
  split <;> rfl

@[simp] theorem withPort_freeGroupSlots (n : Byte) : (s.withPort p).freeGroupSlots w n = (s.freeGroupSlots w n).withPort p := by
  unfold State.freeGroupSlots
  dsimp only
  rw [withPort_ite]
  rfl

/-! ### Seal, publication, release -/

@[simp] theorem withPort_sealOpen (c : SealCause) (m : Option MarkerData) (r : Option (Source × Tag)) :
    (s.withPort p).sealOpen w c m r = (s.sealOpen w c m r).withPort p := by
  simp only [State.sealOpen, withPort_youngest]
  split
  · rw [withPort_ite]
    rfl
  · rfl

@[simp] theorem withPort_offlineIfEmpty : (s.withPort p).offlineIfEmpty w = (s.offlineIfEmpty w).withPort p := by
  rw [State.offlineIfEmpty, State.offlineIfEmpty, withPort_ite, withPort_modWin, withPort_post]
  rfl

@[simp] theorem withPort_publishOldest (g : Group) : (s.withPort p).publishOldest w g = (s.publishOldest w g).withPort p := by
  simp only [State.publishOldest, withPort_post, withPort_bumpPublished, withPort_answerPending, withPort_modWin, withPort_windowTrigger]

@[simp] theorem withPort_takeLoop (n : Nat) : State.takeLoop n (s.withPort p) w = (State.takeLoop n s w).withPort p := by
  induction n generalizing s with
  | zero => rfl
  | succ n ih =>
    simp only [State.takeLoop, withPort_oldest, withPort_canTake, withPort_setOldest, withPort_publishOldest, ih]
    split
    · rfl
    · next g _ =>
      rw [withPort_ite, withPort_ite]
      cases g.markerData <;> rfl

@[simp] theorem withPort_drainTake : (s.withPort p).drainTake w = (s.drainTake w).withPort p := by
  simp only [State.drainTake, withPort_win, withPort_takeLoop, withPort_offlineIfEmpty]

@[simp] theorem withPort_releaseAll (e : Option (BitVec 16)) : (s.withPort p).releaseAll w e = (s.releaseAll w e).withPort p := by
  rw [State.releaseAll, State.releaseAll, withPort_ite, withPort_releaseSealed, withPort_drainTake]
  rfl

@[simp] theorem withPort_afterSeal : (s.withPort p).afterSeal w = (s.afterSeal w).withPort p := by
  simp only [State.afterSeal, withPort_win, withPort_releaseAll]
  split <;> rfl

/-! ### Discard, abandonment, quiesce -/

@[simp] theorem withPort_refusePending (g : Group) : (s.withPort p).refusePending w g = (s.refusePending w g).withPort p := by
  simp only [State.refusePending, withPort_answerPending, withPort_bumpRefused]
  split <;> rfl

@[simp] theorem withPort_discardGroup (g : Group) (c : Cause) : (s.withPort p).discardGroup w g c = (s.discardGroup w g c).withPort p := by
  simp only [State.discardGroup, withPort_freeGroupSlots, withPort_refusePending, withPort_post, withPort_bumpDiscarded,
    withPort_removeGroup, withPort_windowTrigger]

@[simp] theorem withPort_discardUnreleased (c : Cause) :
    (s.withPort p).discardUnreleased w c = (s.discardUnreleased w c).withPort p := by
  simp only [State.discardUnreleased, withPort_win]
  exact List.foldl_hom (fun t : State => t.withPort p) fun s g => withPort_discardGroup g c

@[simp] theorem withPort_discardYoungestIf (st : GState) (c : Cause) :
    (s.withPort p).discardYoungestIf w st c = (s.discardYoungestIf w st c).withPort p := by
  simp only [State.discardYoungestIf, withPort_youngest, withPort_discardGroup]
  split
  · rw [withPort_ite]
  · rfl

@[simp] theorem withPort_abandonFaulted : (s.withPort p).abandonFaulted w = (s.abandonFaulted w).withPort p := by
  simp only [State.abandonFaulted, withPort_oldest, withPort_freeGroupSlots, withPort_mapCredits, withPort_answerPending, withPort_post,
    withPort_bumpDiscarded, withPort_modWin, withPort_windowTrigger, withPort_drainTake]
  split
  · rw [withPort_ite]
  · rfl

@[simp] theorem withPort_retryFaulted : (s.withPort p).retryFaulted w = (s.retryFaulted w).withPort p := by
  simp only [State.retryFaulted, withPort_oldest, withPort_setOldest]
  split
  · rw [withPort_ite]
  · rfl

@[simp] theorem withPort_quiesceDrop : (s.withPort p).quiesceDrop w = (s.quiesceDrop w).withPort p := by
  simp only [State.quiesceDrop, withPort_modWin, withPort_refuseHeld, withPort_discardUnreleased, withPort_offlineIfEmpty]

@[simp] theorem withPort_quiesceFinish : (s.withPort p).quiesceFinish w = (s.quiesceFinish w).withPort p := by
  simp only [State.quiesceFinish, withPort_modWin, withPort_refuseHeld, withPort_sealOpen, withPort_discardYoungestIf,
    withPort_releaseAll, withPort_offlineIfEmpty]

/-! ### Soft reset -/

@[simp] theorem withPort_softResetCheck : (s.withPort p).softResetCheck = s.softResetCheck.withPort p := by
  have hend : (s.withPort p).endSoftReset = s.endSoftReset.withPort p := rfl
  rw [State.softResetCheck, State.softResetCheck, withPort_ite, hend]
  rfl

@[simp] theorem withPort_softAbandon : (s.withPort p).softAbandon w = (s.softAbandon w).withPort p := by
  rw [State.softAbandon, State.softAbandon, withPort_ite, withPort_modWin, withPort_abandonFaulted]
  rfl

@[simp] theorem withPort_softQuiesce : (s.withPort p).softQuiesce w = (s.softQuiesce w).withPort p := by
  simp only [State.softQuiesce, withPort_win, withPort_modWin, withPort_quiesceDrop]
  split <;> rfl

@[simp] theorem withPort_beginSoftReset (o1 o2 : List WIdx) :
    (s.withPort p).beginSoftReset o1 o2 = (s.beginSoftReset o1 o2).withPort p := by
  have habandon (t : State) :
      (visitOrder o1).foldl State.softAbandon (t.withPort p) = ((visitOrder o1).foldl State.softAbandon t).withPort p :=
    List.foldl_hom (fun t : State => t.withPort p) fun s w => withPort_softAbandon
  have hquiesce (t : State) :
      (visitOrder o2).foldl State.softQuiesce (t.withPort p) = ((visitOrder o2).foldl State.softQuiesce t).withPort p :=
    List.foldl_hom (fun t : State => t.withPort p) fun s w => withPort_softQuiesce
  have hstart : ({ s.withPort p with softReset := true } : State) = ({ s with softReset := true } : State).withPort p := rfl
  rw [State.beginSoftReset, hstart, habandon, hquiesce, withPort_softResetCheck]
  rfl

/-! ### The blocks' answers -/

@[simp] theorem withPort_answer (st : Status) : answer st (s.withPort p) = (answer st s).withPort p := rfl

theorem withPort_writeEnables (op : WindowOperands) : (s.withPort p).writeEnables w op = (s.writeEnables w op).withPort p := by
  rw [State.writeEnables, State.writeEnables, answer_withPort_ite]
  cases opEnables? op <;> rfl

theorem withPort_configureWindow (op : WindowOperands) :
    (s.withPort p).configureWindow w op = (s.configureWindow w op).withPort p := by
  rw [State.configureWindow, State.configureWindow, answer_withPort_ite]
  cases opFields? op with
  | none => rfl
  | some f =>
    dsimp only
    rw [answer_withPort_ite]
    rfl

theorem withPort_writeWindow (op : WindowOperands) : (s.withPort p).writeWindow w op = (s.writeWindow w op).withPort p := by
  rw [State.writeWindow, State.writeWindow, answer_withPort_ite, withPort_writeEnables, withPort_configureWindow]
  rfl

theorem withPort_writeArea (a : AIdx) (m n : Nat) : (s.withPort p).writeArea a m n = (s.writeArea a m n).withPort p := by
  simp only [State.writeArea, withPort_area, withPort_setArea, withPort_answer, answer_withPort_ite]
  rfl

theorem withPort_setOnline : (s.withPort p).setOnline w = (s.setOnline w).withPort p := by
  simp only [State.setOnline, withPort_win, withPort_modWin, withPort_answer, answer_withPort_ite]
  rfl

theorem withPort_setOffline (listed : Bool) {quiesce : State → State} (hq : quiesce (s.withPort p) = (quiesce s).withPort p) :
    (s.withPort p).setOffline w listed quiesce = (s.setOffline w listed quiesce).withPort p := by
  simp only [State.setOffline, withPort_win, hq, withPort_answer, answer_withPort_ite]
  congr 1
  split <;> rfl

theorem withPort_sealCommand : (s.withPort p).sealCommand w = (s.sealCommand w).withPort p := by
  simp only [State.sealCommand, withPort_win, withPort_sealOpen, withPort_afterSeal, withPort_answer, answer_withPort_ite]
  rfl

theorem withPort_releaseCommand : (s.withPort p).releaseCommand w = (s.releaseCommand w).withPort p := by
  simp only [State.releaseCommand, withPort_releaseAll, withPort_answer, answer_withPort_ite]
  rfl

theorem withPort_discardCommand : (s.withPort p).discardCommand w = (s.discardCommand w).withPort p := by
  simp only [State.discardCommand, withPort_discardUnreleased, withPort_answer, answer_withPort_ite]
  rfl

theorem withPort_clearFault (listed : Bool) {act : State → State} (hact : ∀ u : State, act (u.withPort p) = (act u).withPort p) :
    (s.withPort p).clearFault w listed act = (s.clearFault w listed act).withPort p := by
  simp only [State.clearFault, withPort_modWin, hact, withPort_answer, answer_withPort_ite]
  rfl

theorem withPort_popEvents (n : Nat) : (s.withPort p).popEvents n = (s.popEvents n).withPort p := by
  rw [State.popEvents, State.popEvents, answer_withPort_ite]
  rfl

theorem withPort_readStats (zero : Byte) : (s.withPort p).readStats w zero = (s.readStats w zero).withPort p := by
  rw [State.readStats, State.readStats, Answer.withPort, withPort_ite]
  rfl

end

/-- The owning block's answer is the same with any decoder, and leaves the decoder and RESET_N as they are (R1, R171). -/
theorem withPort_portAnswer (s p : State) (c : Instr) : (s.withPort p).portAnswer c = (s.portAnswer c).withPort p := by
  match c with
  | .writeWindow op => exact withPort_writeWindow op
  | .setOnline w => exact withPort_setOnline
  | .setOfflineFinish w mode => exact withPort_setOffline (quiesce := fun s => s.quiesceFinish (windowOf w)) _ withPort_quiesceFinish
  | .setOfflineDrop w mode => exact withPort_setOffline (quiesce := fun s => s.quiesceDrop (windowOf w)) _ withPort_quiesceDrop
  | .seal w => exact withPort_sealCommand
  | .release w => exact withPort_releaseCommand
  | .discard w => exact withPort_discardCommand
  | .clearFaultRetry w action =>
    refine withPort_clearFault (act := fun s => (s.retryFaulted (windowOf w)).drainTake (windowOf w)) _ fun u => ?_
    rw [withPort_retryFaulted, withPort_drainTake]
  | .clearFaultAbandon w action =>
    exact withPort_clearFault (act := fun s => s.abandonFaulted (windowOf w)) _ fun _ => withPort_abandonFaulted
  | .writeArea a first count => exact withPort_writeArea _ _ _
  | .popEvents n => exact withPort_popEvents _
  | .readStats w zero => exact withPort_readStats zero
  | .softReset o1 o2 => exact congrArg (answer .accepted) (withPort_beginSoftReset o1 o2)
  | .identify => rfl
  | .readWindows _ _ => rfl
  | .readGroups _ => rfl
  | .readAreas _ _ => rfl
  | .readSlots _ _ => rfl
  | .badCommand _ => rfl
  | .upstreamRequest _ => rfl
  | .upstreamResponse _ => rfl
  | .grant => rfl
  | .downstreamIssue => rfl
  | .downstreamResponse _ _ _ => rfl
  | .reevaluationPass => rfl
  | .epochEvent _ => rfl
  | .ageExpiry _ => rfl
  | .holdExpiry _ => rfl
  | .linkReset _ => rfl
  | .linkResetRelease => rfl
  | .powerOnReset => rfl
  | .powerOnResetRelease _ => rfl
  | .transactionEndsEarly _ => rfl
  | .usTick => rfl
  | .transactionStart => rfl

/-! ### The taking of a command -/

/-- No owning block moves RESET_N (R19). -/
theorem portAnswer_resetAsserted (s : State) (c : Instr) : (s.portAnswer c).state.resetAsserted = s.resetAsserted :=
  congrArg (fun a : Answer => a.state.resetAsserted) (withPort_portAnswer s s c)

/-- No command of the port moves RESET_N (R19). -/
theorem exec_port_resetAsserted {c : Instr} (hc : c.isPortCommand = true) {s t : State} (h : exec c s = .next t) :
    t.resetAsserted = s.resetAsserted := by
  obtain rfl | ⟨bytes, rfl | rfl⟩ := exec_port_cases c hc h
  · rfl
  · rfl
  · exact portAnswer_resetAsserted s c

/-- A placed answer sets every field of the decoder anew. -/
theorem placed_withPort {a : Answer} {p : State} (h : p.resetAsserted = a.state.resetAsserted) : (a.withPort p).placed = a.placed := by
  simp only [Answer.placed, Answer.withPort, State.withPort, h]

/-- Two decoders that can both receive the frame of a command take it to the same state (R171). -/
theorem exec_withPort {s p : State} {c : Instr} (hc : c.isPortCommand = true)
    (hk : ∀ code, c = .badCommand code → knownCodes.contains code = false) (hreset : p.resetAsserted = s.resetAsserted)
    (hs : s.canReceive (frameOf c) = true) (hp : (s.withPort p).canReceive (frameOf c) = true) :
    exec c (s.withPort p) = exec c s := by
  have hplaced (st : Status) : (answer st (s.withPort p)).placed = (answer st s).placed :=
    placed_withPort (a := answer st s) hreset
  have hact : ((s.withPort p).portAnswer c).placed = (s.portAnswer c).placed := by
    rw [withPort_portAnswer]
    exact placed_withPort (hreset.trans (portAnswer_resetAsserted s c).symm)
  rw [exec_port_eq c hc hk, exec_port_eq c hc hk]
  simp only [State.take, hs, hp, withPort_softReset, hplaced, hact, if_true]

end Sys2Proof.Machine
end

section
/-! O59. Frames (R169 to R171, R175): what a command's frame is, that its bytes spell that command and none of its beginnings spells one,
and what its bits make of the decoder, all of them or the first few. -/

namespace Sys2Proof.Machine

/-! ### The fields of a frame (R169, R175) -/

/-- A field is read back from its bytes when it fits in them. -/
theorem ofNat_leValue_leBytes {w n : Nat} (h : w ≤ 8 * n) (x : BitVec w) : BitVec.ofNat w (leValue (leBytes n x.toNat)) = x := by
  have hfits : x.toNat < 256 ^ n :=
    calc x.toNat < 2 ^ w := x.isLt
      _ ≤ 2 ^ (8 * n) := Nat.pow_le_pow_right (by decide) h
      _ = 256 ^ n := Nat.pow_mul 2 8 n
  rw [leValue_leBytes, Nat.mod_eq_of_lt hfits, BitVec.ofNat_toNat, BitVec.setWidth_eq]

theorem ofNat_leValue_singleton (b : Byte) : BitVec.ofNat 8 (leValue [b]) = b := by
  simp [leValue]

theorem operandsOfBytes_opBytes (op : WindowOperands) : operandsOfBytes (opBytes op) = op := by
  have hfields : operandsOfBytes (opBytes op) =
      { index := BitVec.ofNat 8 (leValue [op.index]), base := BitVec.ofNat 40 (leValue (leBytes 5 op.base.toNat)),
        size := BitVec.ofNat 32 (leValue (leBytes 4 op.size.toNat)), area := BitVec.ofNat 8 (leValue [op.area]),
        trigger := BitVec.ofNat 8 (leValue [op.trigger]),
        markerOffset := BitVec.ofNat 32 (leValue (leBytes 4 op.markerOffset.toNat)),
        laneGroup := BitVec.ofNat 8 (leValue [op.laneGroup]), completion := BitVec.ofNat 8 (leValue [op.completion]),
        policy := BitVec.ofNat 8 (leValue [op.policy]), holdLimit := BitVec.ofNat 16 (leValue (leBytes 2 op.holdLimit.toNat)),
        ageLimit := BitVec.ofNat 16 (leValue (leBytes 2 op.ageLimit.toNat)), ageAction := BitVec.ofNat 8 (leValue [op.ageAction]),
        enables := BitVec.ofNat 16 (leValue (leBytes 2 op.enables.toNat)) } := rfl
  rw [hfields]
  simp only [ofNat_leValue_singleton, ofNat_leValue_leBytes, Nat.reduceMul, Nat.reduceLeDiff]

theorem opBytes_length (op : WindowOperands) : (opBytes op).length = 26 := rfl

/-! ### What bytes spell (R171, R175) -/

/-- How many operand bytes follow a known code (R175). -/
def operandCount (code : Byte) : Nat :=
  if code = 0x01#8 ∨ code = 0x5A#8 then 0
  else if code = 0x11#8 then 26
  else if code = 0x31#8 then 5
  else if code = 0x32#8 then 3
  else if code = 0x10#8 ∨ code = 0x13#8 ∨ code = 0x23#8 ∨ code = 0x30#8 ∨ code = 0x41#8 then 2
  else 1

theorem command0_code {code : Byte} {c : Instr} (h : command0? code = some c) : operandCount code = 0 := by
  unfold command0? at h
  split at h
  · next hcode => rw [hcode]; rfl
  · split at h
    · next hcode => rw [hcode]; rfl
    · cases h

theorem command1_code {code a : Byte} {c : Instr} (h : command1? code a = some c) : operandCount code = 1 := by
  unfold command1? at h
  iterate 6
    split at h
    · next hcode => rw [hcode]; rfl
  cases h

theorem command2_code {code a b : Byte} {c : Instr} (h : command2? code a b = some c) : operandCount code = 2 := by
  unfold command2? at h
  iterate 5
    split at h
    · next hcode => rw [hcode]; rfl
  cases h

/-- A known code makes a command with its own number of operand bytes only. -/
theorem knownCommand_length {code : Byte} {ops : List Byte} {c : Instr} (h : knownCommand? code ops = some c) :
    ops.length = operandCount code := by
  unfold knownCommand? at h
  split at h
  · exact (command0_code h).symm
  · exact (command1_code h).symm
  · exact (command2_code h).symm
  · split at h
    · next hcode => rw [hcode]; rfl
    · cases h
  · split at h
    · next hcode => rw [hcode]; rfl
    · cases h
  · split at h
    · next hcode => rw [hcode.1, hcode.2]; rfl
    · cases h

theorem commandOf_known {code : Byte} (hcode : knownCodes.contains code = true) (ops : List Byte) :
    commandOf (code :: ops) = knownCommand? code ops := if_pos hcode

theorem commandOf_writeWindow {ops : List Byte} (hlen : ops.length = 26) :
    commandOf (0x11#8 :: ops) = some (.writeWindow (operandsOfBytes ops)) := by
  rw [commandOf_known rfl, knownCommand?.eq_def]
  split
  case h_6 => exact if_pos ⟨rfl, hlen⟩
  all_goals simp at hlen

/-- BAD_COMMAND carries none of the known codes. -/
theorem badCommand_unknown {code : Byte} (h : (Instr.badCommand code).wf = true) : knownCodes.contains code = false := by
  refine knownCodes_not_contains fun hmem => ?_
  rw [knownCodes_toNat] at hmem
  have hknown : Instr.commandCodes.contains code.toNat = true := List.contains_iff_mem.2 hmem
  rw [Instr.wf, hknown] at h
  cases h

/-- The frame of a command spells that command (R175). -/
theorem commandOf_frameOf {c : Instr} (h : c.isSpelled = true) : commandOf (frameOf c) = some c := by
  obtain ⟨⟨hport, hwf⟩, hrow⟩ : (c.isPortCommand = true ∧ c.wf = true) ∧ _ := by
    simpa only [Instr.isSpelled, Bool.and_eq_true] using h
  match c, hport, hwf, hrow with
  | .badCommand code, _, hwf, _ => exact if_neg (by rw [badCommand_unknown hwf]; decide)
  | .identify, _, _, _ => rfl
  | .readWindows _ _, _, _, _ => rfl
  | .writeWindow op, _, _, _ => rw [frameOf, commandOf_writeWindow (opBytes_length op), operandsOfBytes_opBytes]
  | .setOnline _, _, _, _ => rfl
  | .setOfflineFinish w mode, _, hwf, _ =>
    have hmode : mode ≠ 1#8 := bne_iff_ne.1 hwf
    exact congrArg some (if_neg hmode)
  | .setOfflineDrop w mode, _, _, hrow =>
    have hmode : mode = 1#8 := beq_iff_eq.1 hrow
    exact congrArg some (if_pos hmode)
  | .seal _, _, _, _ => rfl
  | .release _, _, _, _ => rfl
  | .discard _, _, _, _ => rfl
  | .clearFaultRetry w action, _, hwf, _ =>
    have haction : action ≠ 1#8 := bne_iff_ne.1 hwf
    exact congrArg some (if_neg haction)
  | .clearFaultAbandon w action, _, _, hrow =>
    have haction : action = 1#8 := beq_iff_eq.1 hrow
    exact congrArg some (if_pos haction)
  | .readGroups _, _, _, _ => rfl
  | .readAreas _ _, _, _, _ => rfl
  | .writeArea a first count, _, _, _ =>
    have hfields : commandOf (frameOf (.writeArea a first count)) =
        some (.writeArea a (BitVec.ofNat 16 (leValue (leBytes 2 first.toNat))) (BitVec.ofNat 16 (leValue (leBytes 2 count.toNat)))) := rfl
    rw [hfields, ofNat_leValue_leBytes (Nat.le_refl 16), ofNat_leValue_leBytes (Nat.le_refl 16)]
  | .readSlots first count, _, _, _ =>
    have hfields : commandOf (frameOf (.readSlots first count)) =
        some (.readSlots (BitVec.ofNat 16 (leValue (leBytes 2 first.toNat))) count) := rfl
    rw [hfields, ofNat_leValue_leBytes (Nat.le_refl 16)]
  | .popEvents _, _, _, _ => rfl
  | .readStats _ _, _, _, _ => rfl
  | .softReset o1 o2, _, _, hrow =>
    obtain ⟨rfl, rfl⟩ : o1 = [] ∧ o2 = [] := by simpa using hrow
    rfl

/-- A spelled command is not a known code that came as BAD_COMMAND. -/
theorem isSpelled_unknown {c : Instr} (h : c.isSpelled = true) (code : Byte) (hc : c = .badCommand code) :
    knownCodes.contains code = false := by
  subst hc
  exact badCommand_unknown (by simpa [Instr.isSpelled, Instr.isPortCommand] using h)

/-- No beginning of a frame that spells a command spells one (R170, R171). -/
theorem commandOf_take {c : Instr} (h : c.isSpelled = true) {k : Nat} (hk : k < (frameOf c).length) :
    commandOf ((frameOf c).take k) = none := by
  cases k with
  | zero => rfl
  | succ k =>
    obtain ⟨code, ops, hframe⟩ : ∃ code ops, frameOf c = code :: ops := List.exists_cons_of_length_pos (by omega)
    rw [hframe, List.length_cons] at hk
    have hspell := commandOf_frameOf h
    rw [hframe] at hspell
    rw [hframe, List.take_succ_cons, Option.eq_none_iff_forall_ne_some]
    intro d hd
    cases hcode : knownCodes.contains code with
    | true =>
      rw [commandOf_known hcode] at hspell hd
      have hlen := (knownCommand_length hd).trans (knownCommand_length hspell).symm
      rw [List.length_take] at hlen
      omega
    | false =>
      have hbad : some (.badCommand code) = some c := (if_neg (by rw [hcode]; decide)).symm.trans hspell
      rw [← Option.some.inj hbad] at hframe
      cases hframe
      exact absurd hk (Nat.not_lt_zero k ∘ Nat.lt_of_succ_lt_succ)

/-! ### The decoder within a frame (R169, R170) -/

/-- The decoder in a transaction with the bytes `bytes` of a frame received, none of them the last, and the bits `bits` of the next:
every whole byte was answered by the fill byte (R170). -/
def State.midFrame (s : State) (bytes : List Byte) (bits : List Bool) : State :=
  { s with
    frame := if bytes = [] then .command else .operands
    shift := bits
    received := bytes
    buffer := []
    masterRead := List.replicate bytes.length 0xFF#8 }

section
variable {s : State} {bytes : List Byte}

theorem State.midFrame_receiving {bits : List Bool} : (s.midFrame bytes bits).frame.receiving = true := by
  by_cases hbytes : bytes = []
  · rw [State.midFrame, if_pos hbytes]
    rfl
  · rw [State.midFrame, if_neg hbytes]
    rfl

theorem State.startTransaction_eq : s.startTransaction = s.midFrame [] [] := rfl

/-- The state in which a byte received is looked at: the byte in the frame, the fill byte read for it. -/
def State.byteTaken (s : State) (b : Byte) : State :=
  { s with shift := [], received := s.received ++ [b], masterRead := s.masterRead ++ [0xFF#8] }

/-- A byte that does not complete a command (R170). -/
theorem byteIn_waits {b : Byte} (h : commandOf (s.received ++ [b]) = none) :
    s.byteIn b = { s.byteTaken b with frame := .operands } := by
  rw [State.byteIn]
  dsimp only
  rw [h]
  rfl

/-- A byte that completes a command, which is taken (R170, R171). -/
theorem byteIn_command {b : Byte} {c : Instr} (h : commandOf (s.received ++ [b]) = some c) :
    s.byteIn b = (s.byteTaken b).afterCommand c := by
  rw [State.byteIn]
  dsimp only
  rw [h]
  rfl

theorem byteIn_midFrame {b : Byte} (h : commandOf (bytes ++ [b]) = none) :
    (s.midFrame bytes []).byteIn b = s.midFrame (bytes ++ [b]) [] := by
  rw [byteIn_waits h, State.midFrame, State.midFrame, if_neg (List.append_ne_nil_of_right_ne_nil bytes (List.cons_ne_nil b [])),
    List.length_append, List.replicate_add]
  rfl

/-- The bytes of the beginning of a frame (R169, R170). -/
theorem clocks_midFrame (hnone : ∀ m, m <+: bytes → commandOf m = none) :
    (s.midFrame [] []).clocks (bytes.flatMap bitsOf) = s.midFrame bytes [] := by
  induction bytes using List.reverseRecOn with
  | nil => rfl
  | append_singleton bytes b ih =>
    have hbytes := ih fun m hm => hnone m (hm.trans (List.prefix_append bytes [b]))
    rw [List.flatMap_append, clocks_append, hbytes, List.flatMap_singleton, clocks_byte _ b State.midFrame_receiving rfl,
      byteIn_midFrame (hnone _ (List.prefix_refl _))]

end

/-- The first whole bytes of a frame. -/
theorem take_flatMap_bitsOf (l : List Byte) (j : Nat) : (l.flatMap bitsOf).take (8 * j) = (l.take j).flatMap bitsOf := by
  induction l generalizing j with
  | nil => simp
  | cons b l ih =>
    cases j with
    | zero => rfl
    | succ j =>
      rw [List.flatMap_cons, List.take_succ_cons, List.flatMap_cons, ← ih j, List.take_append, bitsOf_length,
        List.take_of_length_le (by rw [bitsOf_length]; omega)]
      congr 2

theorem length_flatMap_bitsOf (l : List Byte) : (l.flatMap bitsOf).length = 8 * l.length := by
  simp [List.length_flatMap, Nat.mul_comm]

/-- A cut of the bits is the whole bytes before it and the bits of the byte under way. -/
theorem take_bits_eq (l : List Byte) (k : Nat) :
    (l.take (k / 8)).flatMap bitsOf ++ ((l.flatMap bitsOf).take k).drop (k / 8 * 8) = (l.flatMap bitsOf).take k := by
  have hwhole : ((l.flatMap bitsOf).take k).take (k / 8 * 8) = (l.take (k / 8)).flatMap bitsOf := by
    rw [List.take_take, Nat.min_eq_left (Nat.div_mul_le_self k 8), Nat.mul_comm, take_flatMap_bitsOf]
  rw [← hwhole, List.take_append_drop]

/-- No byte is whole before the eighth bit. -/
theorem take_div_eq_nil {l : List Byte} {k : Nat} (hk : k < 8 * l.length) : l.take (k / 8) = [] ↔ k < 8 := by
  rw [List.take_eq_nil_iff, ← List.length_eq_zero_iff]
  omega

/-! ### The bits of a frame, all or some (R169 to R171) -/

/-- Edges of MCLK within a transaction, without a rise. -/
theorem exec_clocks {s : State} (hreset : s.resetAsserted = false) (hframe : s.frame ≠ .idle) (mdi : List Bool) :
    exec (.transactionEndsEarly ⟨mdi, false⟩) s = .next (s.clocks mdi) := by
  rw [exec, execTransactionEndsEarly, if_neg (by simp [hreset, hframe])]
  rfl

section
variable {s : State} {c : Instr} (hspell : c.isSpelled = true) (hreset : s.resetAsserted = false)
include hspell

theorem isPortCommand_of_isSpelled : c.isPortCommand = true := commandOf_isPort _ c (commandOf_frameOf hspell)

/-- No beginning of the first `k` bytes of a frame, the last byte not among them, spells a command. -/
theorem commandOf_prefix_take {k : Nat} (hk : k < (frameOf c).length) (m : List Byte) (hm : m <+: (frameOf c).take k) :
    commandOf m = none := by
  have hlen : m.length ≤ k := hm.length_le.trans (by rw [List.length_take]; omega)
  rw [List.prefix_iff_eq_take.1 (hm.trans (List.take_prefix k _))]
  exact commandOf_take hspell (by omega)

/-- A decoder that has received the first `k` bits of the frame. -/
theorem clocks_cut {k : Nat} (hk : k < ((frameOf c).flatMap bitsOf).length) :
    s.startTransaction.clocks (((frameOf c).flatMap bitsOf).take k) =
      s.midFrame ((frameOf c).take (k / 8)) ((((frameOf c).flatMap bitsOf).take k).drop (k / 8 * 8)) := by
  rw [length_flatMap_bitsOf] at hk
  have hbytes := clocks_midFrame (s := s) (commandOf_prefix_take hspell (k := k / 8) (by omega))
  conv_lhs => rw [← take_bits_eq, clocks_append, State.startTransaction_eq, hbytes]
  rw [clocks_partial _ _ State.midFrame_receiving]
  · rfl
  · change 0 + _ < 8
    rw [List.length_drop, List.length_take]
    omega

include hreset

/-- A decoder at the start of a transaction takes the command like any decoder that has a part of the frame (R171). -/
theorem exec_partReceived {p : State} (hp : (s.startTransaction.withPort p).canReceive (frameOf c) = true)
    (hpreset : p.resetAsserted = s.resetAsserted) : exec c (s.startTransaction.withPort p) = exec c s.startTransaction :=
  exec_withPort (isPortCommand_of_isSpelled hspell) (isSpelled_unknown hspell) hpreset
    (canReceive_of_portTakes _ _ ⟨hreset, rfl, rfl, rfl⟩) hp

/-- The command's own row completes a frame of which a part has come, to the state the whole frame leads to (R171). -/
theorem exec_midFrame {bytes : List Byte} {bits : List Bool} (hpart : bytes.flatMap bitsOf ++ bits <+: (frameOf c).flatMap bitsOf) :
    exec c (s.midFrame bytes bits) = exec c s.startTransaction := by
  refine exec_partReceived (p := s.midFrame bytes bits) hspell hreset ?_ rfl
  change (!s.resetAsserted && (s.midFrame bytes bits).frame.receiving && (bytes.flatMap bitsOf ++ bits).isPrefixOf _) = true
  rw [hreset, State.midFrame_receiving, List.isPrefixOf_iff_prefix.2 hpart]
  rfl

/-- The bits of the whole frame take the command (R171). -/
theorem clocks_frame : .next (s.startTransaction.clocks ((frameOf c).flatMap bitsOf)) = exec c s.startTransaction := by
  have hcommand := commandOf_frameOf hspell
  obtain ⟨bytes, b, hframe⟩ : ∃ bytes b, frameOf c = bytes ++ [b] := by
    refine ⟨_, _, (List.dropLast_append_getLast fun hnil => ?_).symm⟩
    rw [hnil] at hcommand
    cases hcommand
  have hbytes : (frameOf c).take bytes.length = bytes := by rw [hframe, List.take_left]
  have hnone := commandOf_prefix_take hspell (k := bytes.length) (by rw [hframe, List.length_append]; exact Nat.lt_succ_self _)
  rw [hbytes] at hnone
  have hlast : ((s.midFrame bytes []).byteTaken b).afterCommand c = s.startTransaction.clocks ((frameOf c).flatMap bitsOf) := by
    rw [hframe, List.flatMap_append, List.flatMap_singleton, clocks_append, State.startTransaction_eq, clocks_midFrame hnone,
      clocks_byte _ b State.midFrame_receiving rfl, byteIn_command (hframe ▸ hcommand)]
  rw [← hlast, ← exec_port c (isPortCommand_of_isSpelled hspell)]
  refine exec_partReceived (p := (s.midFrame bytes []).byteTaken b) hspell hreset ?_ rfl
  change (!s.resetAsserted && (s.midFrame bytes []).frame.receiving && ((bytes ++ [b]).flatMap bitsOf ++ []).isPrefixOf _) = true
  rw [hreset, State.midFrame_receiving, List.append_nil, ← hframe, List.isPrefixOf_iff_prefix.2 (List.prefix_refl _)]
  rfl

end

/-! ### The frames of the command set (R175) -/

/-- Bytes 0 to 25 of the window record, byte by byte (R177, R178). -/
theorem opBytes_eq (op : WindowOperands) :
    opBytes op = [op.index] ++
      [op.base.setWidth 8, (op.base >>> 8).setWidth 8, (op.base >>> 16).setWidth 8, (op.base >>> 24).setWidth 8,
        (op.base >>> 32).setWidth 8] ++
      [op.size.setWidth 8, (op.size >>> 8).setWidth 8, (op.size >>> 16).setWidth 8, (op.size >>> 24).setWidth 8] ++
      [op.area, op.trigger] ++
      [op.markerOffset.setWidth 8, (op.markerOffset >>> 8).setWidth 8, (op.markerOffset >>> 16).setWidth 8,
        (op.markerOffset >>> 24).setWidth 8] ++
      [op.laneGroup, op.completion, op.policy] ++ [op.holdLimit.setWidth 8, (op.holdLimit >>> 8).setWidth 8] ++
      [op.ageLimit.setWidth 8, (op.ageLimit >>> 8).setWidth 8] ++ [op.ageAction] ++
      [op.enables.setWidth 8, (op.enables >>> 8).setWidth 8] := by
  simp only [opBytes, leBytes_two, leBytes_four, leBytes_five]

/-- Settles O59: the frames of the command set, then what the bytes and the bits of a frame do. -/
theorem frameSpellsCommand : Obligations.FrameSpellsCommand := by
  refine ⟨bitsOf_cons, fun a b f n o1 o2 op => ?_, fun c hspell => ⟨commandOf_frameOf hspell, fun k => commandOf_take hspell, ?_⟩⟩
  · intro lo hi four
    have hwriteWindow := congrArg (fun l => 0x11#8 :: l) (opBytes_eq op)
    have hwriteArea : frameOf (.writeArea a f n) = [0x31#8, a, lo f, hi f, lo n, hi n] := by rw [frameOf, leBytes_two, leBytes_two]; rfl
    have hreadSlots : frameOf (.readSlots f b) = [0x32#8, lo f, hi f, b] := by rw [frameOf, leBytes_two]; rfl
    exact ⟨rfl, rfl, hwriteWindow, rfl, rfl, rfl, rfl, rfl, rfl, rfl, rfl, rfl, rfl, hwriteArea, hreadSlots, rfl, rfl, rfl⟩
  · intro s hreset start bits
    have hclocks (mdi : List Bool) : exec (.transactionEndsEarly ⟨mdi, false⟩) start = .next (start.clocks mdi) :=
      exec_clocks (s := start) hreset (fun hidle => by cases hidle) mdi
    refine ⟨?_, (hclocks bits).trans (clocks_frame hspell hreset), fun k hk => ?_⟩
    · rw [exec, execTransactionStart, hreset]
      rfl
    · have hbytes : k < 8 * (frameOf c).length := length_flatMap_bitsOf (frameOf c) ▸ hk
      refine ⟨_, (hclocks _).trans (congrArg _ (clocks_cut hspell hk)), ?_, ?_, rfl, ?_⟩
      · exact if_congr (take_div_eq_nil hbytes) rfl rfl
      · rw [State.midFrame, List.length_take, Nat.min_eq_left (by omega)]
      · exact exec_midFrame hspell hreset (by rw [take_bits_eq]; exact List.take_prefix k _)

end Sys2Proof.Machine
end

section
/-! O42. The serial line (R169 to R172, R188): what MDO carries, the edges of MSEL_N, and the edges of MCLK, cut anywhere (log 14), by
which a frame's bits are collected and the result buffer is clocked out. -/

namespace Sys2Proof.Machine

/-! ### MDO (R169, R170) -/

section
variable {s : State}

theorem mdoByte_of_quiet (h : s.resetAsserted = true ∨ s.frame = .idle) : s.mdoByte = none := by
  rw [State.mdoByte]
  split
  · rfl
  · next hreset => rw [h.resolve_left hreset]

theorem mdoByte_of_fill (hreset : s.resetAsserted = false) (h : s.frame = .command ∨ s.frame = .operands ∨ s.frame = .trailer) :
    s.mdoByte = some 0xFF#8 := by
  rw [State.mdoByte, hreset]
  rcases h with h | h | h <;> rw [h] <;> rfl

theorem mdoByte_of_result (hreset : s.resetAsserted = false) (h : s.frame = .result) : s.mdoByte = s.buffer.head? := by
  rw [State.mdoByte, hreset, h]
  rfl

end

/-! ### What a transaction keeps under way (R170, R172) -/

/-- MSEL_N is low and RESET_N released: edges of MCLK count (R169, R188). -/
def State.selected (s : State) : Prop := s.resetAsserted = false ∧ s.frame ≠ .idle

section
variable {s : State}

theorem exec_unselected (h : ¬s.selected) (r : SerialRun) : exec (.transactionEndsEarly r) s = .next s := by
  have hquiet : s.resetAsserted = true ∨ s.frame = .idle := by
    rw [State.selected, not_and_or, Bool.not_eq_false, not_not] at h
    exact h
  rw [exec, execTransactionEndsEarly, if_pos hquiet]

theorem exec_selected (h : s.selected) (r : SerialRun) : exec (.transactionEndsEarly r) s = .next (s.serialRun r) := by
  rw [exec, execTransactionEndsEarly, if_neg (by simp [h.1, h.2])]

/-- A command of the port leaves the decoder where it is or in RESULT (R170). -/
theorem afterCommand_selected {c : Instr} (hc : c.isPortCommand = true) (h : s.selected) : (s.afterCommand c).selected := by
  have hexec := exec_port c hc s
  refine ⟨(exec_port_resetAsserted hc hexec).trans h.1, ?_⟩
  obtain heq | ⟨bytes, heq | heq⟩ := exec_port_cases c hc hexec <;> rw [heq]
  · exact h.2
  · exact Frame.noConfusion
  · exact Frame.noConfusion

theorem byteIn_selected (h : s.selected) (b : Byte) : (s.byteIn b).selected := by
  cases hcommand : commandOf (s.received ++ [b]) with
  | none =>
    rw [byteIn_waits hcommand]
    exact ⟨h.1, Frame.noConfusion⟩
  | some c =>
    rw [byteIn_command hcommand]
    exact afterCommand_selected (s := s.byteTaken b) (commandOf_isPort _ c hcommand) h

theorem byteOut_selected (h : s.selected) (b : Byte) : (s.byteOut b).selected := by
  refine ⟨h.1, ?_⟩
  rw [State.byteOut]
  dsimp only
  split <;> exact Frame.noConfusion

theorem bitIn_selected (h : s.selected) (bit : Bool) : (s.bitIn bit).selected := by
  rw [State.bitIn]
  split
  · exact h
  · exact byteIn_selected h _

theorem bitOut_selected (h : s.selected) : s.bitOut.selected := by
  rw [State.bitOut]
  split
  · exact h
  · split
    · exact h
    · exact byteOut_selected h _

theorem clock_selected (h : s.selected) (bit : Bool) : (s.clock bit).selected := by
  rw [State.clock]
  split
  · exact h
  · exact bitIn_selected h bit
  · exact bitIn_selected h bit
  · exact bitOut_selected h
  · exact bitOut_selected h

/-- Only a rise of MSEL_N ends a transaction (R170, R172). -/
theorem clocks_selected (h : s.selected) (mdi : List Bool) : (s.clocks mdi).selected := by
  induction mdi generalizing s with
  | nil => exact h
  | cons bit mdi ih => exact ih (clock_selected h bit)

/-- Edges may be cut anywhere (log 14). -/
theorem exec_append (mdi more : List Bool) (rise : Bool) {t : State} (h : exec (.transactionEndsEarly ⟨mdi, false⟩) s = .next t) :
    exec (.transactionEndsEarly ⟨mdi ++ more, rise⟩) s = exec (.transactionEndsEarly ⟨more, rise⟩) t := by
  by_cases hs : s.selected
  · rw [exec_clocks hs.1 hs.2] at h
    injection h with ht
    rw [exec_selected hs, ← ht, exec_selected (clocks_selected hs mdi), State.serialRun, State.serialRun, clocks_append]
  · rw [exec_unselected hs] at h ⊢
    injection h with ht
    rw [← ht, exec_unselected hs]

end

/-! ### The bytes clocked out (R170, R171) -/

/-- The bits of the byte under way, less than eight, clocked out whatever MDI carries (R169). -/
theorem clocks_bitsOut {s : State} {b : Byte} (h : s.frame = .result ∨ s.frame = .trailer) (hb : s.mdoByte = some b)
    (hshift : s.shift = []) (l : List Bool) (hl : l.length < 8) : s.clocks l = { s with shift := (bitsOf b).take l.length } := by
  induction l using List.reverseRecOn with
  | nil => exact congrArg (fun x => ({ s with shift := x } : State)) hshift
  | append_singleton l x ih =>
    rw [List.length_append, List.length_singleton] at hl ⊢
    have hcount : ((bitsOf b).take l.length).length = l.length := by rw [List.length_take, bitsOf_length]; omega
    have hmdo : ({ s with shift := (bitsOf b).take l.length } : State).mdo = some (b.getLsbD (7 - l.length)) := by
      rw [State.mdo, show ({ s with shift := (bitsOf b).take l.length } : State).mdoByte = s.mdoByte from rfl, hb, Option.map_some, hcount]
    have hnext : (bitsOf b).take l.length ++ [b.getLsbD (7 - l.length)] = (bitsOf b).take (l.length + 1) := by
      rw [List.take_add_one, bitsOf]
      simp [List.getElem?_range (by omega : l.length < 8)]
    rw [clocks_append, ih (by omega), clocks_cons, clocks_nil, clock_sending { s with shift := (bitsOf b).take l.length } x h, State.bitOut,
      hmdo]
    dsimp only
    rw [hcount, if_pos (by omega), hnext]

/-- The decoder sends: the byte that comes next is the first of the result buffer, or the fill byte in TRAILER, none of its bits clocked
out (R170). -/
structure State.sends (s : State) : Prop where
  reset : s.resetAsserted = false
  shift : s.shift = []
  frame : s.frame = if 0 < s.buffer.length then .result else .trailer

/-- Byte `k` that a decoder sends: of the result buffer, and past its last byte the fill byte (R170, R171). -/
def State.outByte (s : State) (k : Nat) : Byte := s.buffer[k]?.getD 0xFF#8

/-- The decoder after `k` bytes sent: the master has them, and past the last byte of the buffer the decoder is in TRAILER (R170). -/
def State.sent (s : State) (k : Nat) : State :=
  { s with
    frame := if k < s.buffer.length then .result else .trailer
    masterRead := s.masterRead ++ s.buffer.take k ++ List.replicate (k - s.buffer.length) 0xFF#8
    buffer := s.buffer.drop k }

/-- Bits of the fill byte. -/
theorem take_bitsOf_fill {j : Nat} (hj : j ≤ 8) : (bitsOf 0xFF#8).take j = List.replicate j true := by
  have hfill : bitsOf 0xFF#8 = List.replicate 8 true := rfl
  rw [hfill, List.take_replicate, Nat.min_eq_left hj]

section
variable {s : State} {k : Nat}

theorem sent_frame (s : State) (k : Nat) : (s.sent k).frame = .result ∨ (s.sent k).frame = .trailer := by
  rw [State.sent]
  dsimp only
  split
  · exact .inl rfl
  · exact .inr rfl

theorem sent_of_lt (hk : k < s.buffer.length) : s.sent k =
    { s with frame := .result, masterRead := s.masterRead ++ s.buffer.take k, buffer := s.buffer.drop k } := by
  rw [State.sent, if_pos hk, Nat.sub_eq_zero_of_le (Nat.le_of_lt hk), List.replicate_zero, List.append_nil]

theorem sent_of_le (hk : s.buffer.length ≤ k) : s.sent k =
    { s with
      frame := .trailer
      masterRead := s.masterRead ++ s.buffer ++ List.replicate (k - s.buffer.length) 0xFF#8
      buffer := [] } := by
  rw [State.sent, if_neg (Nat.not_lt.2 hk), List.take_of_length_le hk, List.drop_of_length_le hk]

theorem outByte_of_lt (hk : k < s.buffer.length) : s.outByte k = s.buffer[k] := by
  rw [State.outByte, List.getElem?_eq_getElem hk, Option.getD_some]

theorem outByte_of_le (hk : s.buffer.length ≤ k) : s.outByte k = 0xFF#8 := by
  rw [State.outByte, List.getElem?_eq_none hk, Option.getD_none]

end

section
variable {s : State} (h : s.sends)
include h

theorem sent_zero : s.sent 0 = s := by
  rw [State.sent, ← h.frame, Nat.zero_sub]
  simp only [List.take_zero, List.drop_zero, List.replicate_zero, List.append_nil]

theorem sent_mdoByte (k : Nat) : (s.sent k).mdoByte = some (s.outByte k) := by
  have hreset : (s.sent k).resetAsserted = false := h.reset
  by_cases hk : k < s.buffer.length
  · have hframe : (s.sent k).frame = .result := if_pos hk
    rw [outByte_of_lt hk, mdoByte_of_result hreset hframe, ← List.getElem?_eq_getElem hk]
    exact List.head?_drop
  · have hframe : (s.sent k).frame = .trailer := if_neg hk
    rw [outByte_of_le (Nat.not_lt.1 hk), mdoByte_of_fill hreset (.inr (.inr hframe))]

theorem sent_byteOut (k : Nat) : (s.sent k).byteOut (s.outByte k) = s.sent (k + 1) := by
  have hread : s.masterRead ++ s.buffer.take k ++ List.replicate (k - s.buffer.length) 0xFF#8 ++ [s.outByte k] =
      s.masterRead ++ s.buffer.take (k + 1) ++ List.replicate (k + 1 - s.buffer.length) 0xFF#8 := by
    by_cases hk : k < s.buffer.length
    · rw [outByte_of_lt hk, Nat.sub_eq_zero_of_le (Nat.le_of_lt hk), Nat.sub_eq_zero_of_le hk, List.take_succ_eq_append_getElem hk]
      simp
    · have hle := Nat.not_lt.1 hk
      rw [outByte_of_le hle, List.take_of_length_le hle, List.take_of_length_le (Nat.le_succ_of_le hle), Nat.succ_sub hle,
        List.replicate_succ', List.append_assoc]
  have hframe : (if (s.buffer.drop k).tail.isEmpty then Frame.trailer else .result) =
      if k + 1 < s.buffer.length then .result else .trailer := by
    rw [List.tail_drop]
    by_cases hk : k + 1 < s.buffer.length <;> simp [hk, Nat.not_lt.1]
  rw [State.byteOut, State.sent, State.sent]
  dsimp only
  rw [hread, hframe, List.tail_drop, ← h.shift]

/-- Whole bytes sent. -/
theorem clocks_bytesOut (k : Nat) (l : List Bool) (hl : l.length = 8 * k) : s.clocks l = s.sent k := by
  induction k generalizing l with
  | zero => rw [List.length_eq_zero_iff.1 hl, clocks_nil, sent_zero h]
  | succ k ih =>
    have hfirst := ih (l.take (8 * k)) (by rw [List.length_take]; omega)
    rw [← List.take_append_drop (8 * k) l, clocks_append, hfirst,
      clocks_byteOut _ _ _ (sent_frame s k) (sent_mdoByte h k) h.shift (by rw [List.length_drop]; omega), sent_byteOut h]

/-- Edges of MCLK while the decoder sends: every eight of them a byte, and of the next byte the bits that are left (R169, R170). -/
theorem clocks_out (l : List Bool) :
    s.clocks l = { s.sent (l.length / 8) with shift := (bitsOf (s.outByte (l.length / 8))).take (l.length % 8) } := by
  have hrest : (l.drop (8 * (l.length / 8))).length = l.length % 8 := by rw [List.length_drop]; omega
  rw [← hrest, ← clocks_bitsOut (sent_frame s _) (sent_mdoByte h _) h.shift _ (by omega),
    ← clocks_bytesOut h (l.length / 8) (l.take (8 * (l.length / 8))) (by rw [List.length_take]; omega), ← clocks_append,
    List.take_append_drop]

theorem exec_out (l : List Bool) : exec (.transactionEndsEarly ⟨l, false⟩) s =
    .next { s.sent (l.length / 8) with shift := (bitsOf (s.outByte (l.length / 8))).take (l.length % 8) } := by
  have hidle : s.frame ≠ .idle := by
    have hframe := sent_frame s 0
    rw [sent_zero h] at hframe
    rcases hframe with hframe | hframe <;> rw [hframe] <;> exact Frame.noConfusion
  rw [exec_clocks h.reset hidle, clocks_out h]

end

/-- Settles O42: MDO, the edges of MSEL_N, the cut of the edges of MCLK, and what they do while bits come in and bytes go out. -/
theorem transactionFraming : Obligations.TransactionFraming := by
  intro s mdi run n
  refine ⟨mdoByte_of_quiet, fun hreset => ⟨mdoByte_of_fill hreset, mdoByte_of_result hreset⟩, fun hnone => ?_, fun b hb => ?_,
    fun hreset => ⟨?_, exec_unselected fun h => ?_⟩, fun hidle => exec_unselected fun h => h.2 hidle, fun hreset => ?_,
    fun more rise t => exec_append mdi more rise, fun hreset hframe => ⟨?_, fun hreceives hlen => ?_, ?_, ?_, ?_⟩⟩
  · rw [State.mdo, hnone]
    rfl
  · rw [State.mdo, Option.mem_def.1 hb]
    rfl
  · rw [exec, execTransactionStart, hreset]
    rfl
  · exact absurd (hreset.symm.trans h.1) (by decide)
  · rw [exec, execTransactionStart, if_neg (by rw [hreset]; decide)]
    rfl
  · exact exec_selected ⟨hreset, hframe⟩ _
  · have hreceiving : s.frame.receiving = true := by rcases hreceives with h | h <;> rw [h] <;> rfl
    exact (exec_clocks hreset hframe mdi).trans (congrArg _ (clocks_partial s mdi hreceiving hlen))
  · intro hresult hshift hlen
    have hsends : s.sends := ⟨hreset, hshift, by rw [hresult, if_pos (by omega)]⟩
    have hlast : n / 8 < s.buffer.length := by omega
    refine (exec_out hsends mdi).trans ?_
    rw [outByte_of_lt hlast, sent_of_lt hlast, List.getElem?_eq_getElem hlast, hresult]
    rfl
  · intro hresult hshift hbuffer hlen
    have hsends : s.sends := ⟨hreset, hshift, by rw [hresult, if_pos (List.length_pos_iff.2 hbuffer)]⟩
    have hpast : s.buffer.length ≤ n / 8 := by omega
    refine (exec_out hsends mdi).trans ?_
    rw [outByte_of_le hpast, sent_of_le hpast, take_bitsOf_fill (by omega)]
  · intro htrailer hshift hbuffer
    have hsends : s.sends := ⟨hreset, hshift, by rw [htrailer, hbuffer]; rfl⟩
    have hpast : s.buffer.length ≤ n / 8 := by rw [hbuffer]; exact Nat.zero_le _
    refine (exec_out hsends mdi).trans ?_
    rw [outByte_of_le hpast, sent_of_le hpast, take_bitsOf_fill (by omega), hbuffer, htrailer, List.append_nil]
    rfl

end Sys2Proof.Machine
end

section
/-! ### A step on a queue that is not empty -/

namespace Sys2Proof.Machine

/-- The companion of `step_idle`: the command at the front leaves the queue before it runs (log 1). -/
theorem step_command {s : State} {c : Instr} {rest : List Instr} (hpending : s.pending = c :: rest) :
    step s = exec c { s with pending := rest } := by
  rw [step, hpending]

/-- Settles O1. -/
theorem stepTakesFrontCommand : Obligations.StepTakesFrontCommand :=
  fun _ _ _ hpending => step_command hpending

end Sys2Proof.Machine
end

section
/-! O46, O50, O51. READ_GROUPS and READ_STATS (R39, R63, R173, R180, R181), SET_ONLINE (R28), and the window commands that act on nothing
(R29, R37, R77, R84, R96). -/

namespace Sys2Proof.Machine

/-! ### READ_GROUPS and READ_STATS (R39, R63, R180, R181) -/

theorem exec_readGroups {s : State} (hport : s.portTakes) (w : WIdx) :
    exec (.readGroups (BitVec.ofNat 8 w.val)) s = .next (s.withReply (0x00#8 :: groupsResult (s.win w).groups)) := by
  rw [exec_permitted (c := .readGroups _) hport rfl rfl (fun _ h => by cases h) (windowCheck_ofNat w), State.portAnswer,
    windowOf_ofNat]
  rfl

section
variable {s : State} {z : Byte} (hport : s.portTakes) (w : WIdx)
include hport

theorem exec_readStats (hz : z.toNat ≤ 1) :
    exec (.readStats (BitVec.ofNat 8 w.val) z) s =
      .next ((s.readStats w z).state.withReply (0x00#8 :: (s.win w).stats.bytes)) := by
  have hindex : (BitVec.ofNat 8 w.val).toNat < 16 := by simp; omega
  have hcheck : Instr.portCheck (.readStats (BitVec.ofNat 8 w.val) z) = none := by
    rw [Instr.portCheck, if_pos hindex, if_pos hz]
  rw [exec_permitted hport rfl rfl (fun _ h => by cases h) hcheck, State.portAnswer, windowOf_ofNat]
  rfl

theorem exec_readStats_badValue (hz : ¬z.toNat ≤ 1) :
    exec (.readStats (BitVec.ofNat 8 w.val) z) s = .next (s.withReply [0x82#8]) := by
  have hindex : (BitVec.ofNat 8 w.val).toNat < 16 := by simp; omega
  have hcheck : Instr.portCheck (.readStats (BitVec.ofNat 8 w.val) z) = some .badValue := by
    rw [Instr.portCheck, if_pos hindex, if_neg hz]
  exact exec_permitted_failed hport rfl rfl (fun _ h => by cases h) hcheck

end

/-- Settles O46: the zero-after-read operand is checked after the index, and decides whether the counts are cleared. -/
theorem groupAndStatReads : Obligations.GroupAndStatReads := by
  intro s w z hport
  refine ⟨exec_readGroups hport w, group_bytes_length, ?_, ?_, fun hzero hone => exec_readStats_badValue hport w ?_⟩
  · rintro rfl
    exact exec_readStats hport w (by decide)
  · rintro rfl
    exact exec_readStats hport w (by decide)
  · have hne0 : z.toNat ≠ 0 := fun h => hzero (BitVec.eq_of_toNat_eq h)
    have hne1 : z.toNat ≠ 1 := fun h => hone (BitVec.eq_of_toNat_eq h)
    omega

/-! ### SET_ONLINE (R28) -/

section
variable {s : State} (hport : s.portTakes) (hsoft : s.softReset = false) (w : WIdx)
include hport hsoft

theorem exec_setOnline :
    exec (.setOnline (BitVec.ofNat 8 w.val)) s = .next ((s.setOnline w).state.withReply (s.setOnline w).reply) := by
  rw [exec_portAnswer (c := .setOnline _) hport hsoft rfl (fun _ h => by cases h) (windowCheck_ofNat w), State.portAnswer,
    windowOf_ofNat]

theorem exec_setOfflineFinish (mode : Byte) {a : Answer}
    (ha : s.setOffline w (mode == 0) (fun s => s.quiesceFinish w) = a) :
    exec (.setOfflineFinish (BitVec.ofNat 8 w.val) mode) s = .next (a.state.withReply a.reply) := by
  rw [exec_portAnswer (c := .setOfflineFinish _ _) hport hsoft rfl (fun _ h => by cases h) (windowCheck_ofNat w), State.portAnswer,
    windowOf_ofNat, ← ha]
  rfl

theorem exec_setOfflineDrop (mode : Byte) {a : Answer}
    (ha : s.setOffline w (mode == 1) (fun s => s.quiesceDrop w) = a) :
    exec (.setOfflineDrop (BitVec.ofNat 8 w.val) mode) s = .next (a.state.withReply a.reply) := by
  rw [exec_portAnswer (c := .setOfflineDrop _ _) hport hsoft rfl (fun _ h => by cases h) (windowCheck_ofNat w), State.portAnswer,
    windowOf_ofNat, ← ha]
  rfl

theorem exec_clearFaultRetry (action : Byte) {a : Answer}
    (ha : s.clearFault w (action == 0) (fun s => (s.retryFaulted w).drainTake w) = a) :
    exec (.clearFaultRetry (BitVec.ofNat 8 w.val) action) s = .next (a.state.withReply a.reply) := by
  rw [exec_portAnswer (c := .clearFaultRetry _ _) hport hsoft rfl (fun _ h => by cases h) (windowCheck_ofNat w), State.portAnswer,
    windowOf_ofNat, ← ha]
  rfl

theorem exec_clearFaultAbandon (action : Byte) {a : Answer}
    (ha : s.clearFault w (action == 1) (fun s => s.abandonFaulted w) = a) :
    exec (.clearFaultAbandon (BitVec.ofNat 8 w.val) action) s = .next (a.state.withReply a.reply) := by
  rw [exec_portAnswer (c := .clearFaultAbandon _ _) hport hsoft rfl (fun _ h => by cases h) (windowCheck_ofNat w), State.portAnswer,
    windowOf_ofNat, ← ha]
  rfl

end

/-- Settles O50: the window's state and its area's slot count decide. -/
theorem setOnline : Obligations.SetOnline := by
  intro s w hport hsoft
  have hexec := exec_setOnline hport hsoft w
  refine ⟨fun hoff hcount => ?_, fun hnot => ?_⟩
  · rw [State.setOnline, if_pos ⟨hoff, hcount⟩] at hexec
    exact hexec
  · have hno : ¬((s.win w).state = .offline ∧ 1 ≤ (s.area (s.win w).area).count) := by
      rintro ⟨hoff, hcount⟩
      rcases hnot with h | h
      · exact h hoff
      · omega
    rw [State.setOnline, if_neg hno] at hexec
    exact hexec

/-! ### Window commands that act on nothing (R29, R37, R77, R84, R96) -/

section
variable {s : State} {w : WIdx} (q : State → State)

theorem State.setOffline_busyState (h : (s.win w).state = .quiescing ∨ (s.win w).state = .frozen) :
    s.setOffline w true q = answer .state s := by
  rcases h with h | h <;> rw [State.setOffline, h] <;> rfl

theorem State.setOffline_noState (h : (s.win w).state = .offline ∨ (s.win w).state = .unused) :
    s.setOffline w true q = answer .none_ s := by
  rcases h with h | h <;> rw [State.setOffline, h] <;> rfl

theorem State.clearFault_notFrozen (h : (s.win w).state ≠ .frozen) : s.clearFault w true q = answer .state s := by
  rw [State.clearFault, if_pos rfl, if_neg h]

/-- An unlisted mode gives BAD_VALUE whatever the state (R29). -/
theorem State.setOffline_unlisted : s.setOffline w false q = answer .badValue s := rfl

/-- An unlisted action gives BAD_VALUE whatever the state (R37). -/
theorem State.clearFault_unlisted : s.clearFault w false q = answer .badValue s := rfl

theorem State.sealCommand_none (h : (s.win w).state ≠ .online ∨ ∀ g ∈ s.youngest w, g.state ≠ .opened) :
    s.sealCommand w = answer .none_ s := by
  refine if_neg ?_
  rintro ⟨hon, hopen⟩
  have hnone := h.resolve_left (not_not_intro hon)
  cases hy : s.youngest w with
  | none => simp [State.hasOpen, hy] at hopen
  | some g => exact hnone g hy (by simpa [State.hasOpen, hy] using hopen)

theorem WState.onlineOrFrozen_iff (x : WState) : x.onlineOrFrozen = true ↔ x = .online ∨ x = .frozen := by
  cases x <;> simp [WState.onlineOrFrozen]

theorem State.releaseCommand_none
    (h : (s.win w).state ≠ .online ∧ (s.win w).state ≠ .frozen ∨ ∀ g ∈ (s.win w).groups, g.state ≠ .sealed) :
    s.releaseCommand w = answer .none_ s := by
  refine if_neg ?_
  rintro ⟨hstate, hsealed⟩
  rw [WState.onlineOrFrozen_iff] at hstate
  obtain ⟨g, hg, hs⟩ := List.any_eq_true.1 hsealed
  rcases h with h | h
  · tauto
  · exact h g hg (by simpa using hs)

theorem GState.unreleased_iff (x : GState) : x.unreleased = true ↔ x = .opened ∨ x = .broken ∨ x = .sealed := by
  cases x <;> simp [GState.unreleased, GState.releasedOrLater]

theorem State.discardCommand_none
    (h : (s.win w).state ≠ .online ∧ (s.win w).state ≠ .frozen ∨
      ∀ g ∈ (s.win w).groups, g.state ≠ .opened ∧ g.state ≠ .broken ∧ g.state ≠ .sealed) :
    s.discardCommand w = answer .none_ s := by
  refine if_neg ?_
  rintro ⟨hstate, hholds⟩
  rw [WState.onlineOrFrozen_iff] at hstate
  obtain ⟨g, hg, hu⟩ := List.any_eq_true.1 hholds
  rw [GState.unreleased_iff] at hu
  rcases h with h | h
  · tauto
  · have := h g hg
    tauto

end

/-- Settles O51, command by command: what each finds, and the status it gives for it. -/
theorem windowCommandsTurnedAway : Obligations.WindowCommandsTurnedAway := by
  intro s w v hport hsoft b tells
  refine ⟨fun h => ⟨?_, ?_⟩, fun h => ⟨?_, ?_⟩, fun h => ⟨?_, ?_⟩, fun hzero hone => ⟨?_, ?_, ?_, ?_⟩, fun h => ?_, fun h => ?_,
    fun h => ?_⟩
  · exact exec_setOfflineFinish hport hsoft w 0 (State.setOffline_busyState _ h)
  · exact exec_setOfflineDrop hport hsoft w 1 (State.setOffline_busyState _ h)
  · exact exec_setOfflineFinish hport hsoft w 0 (State.setOffline_noState _ h)
  · exact exec_setOfflineDrop hport hsoft w 1 (State.setOffline_noState _ h)
  · exact exec_clearFaultRetry hport hsoft w 0 (State.clearFault_notFrozen _ h)
  · exact exec_clearFaultAbandon hport hsoft w 1 (State.clearFault_notFrozen _ h)
  · refine exec_setOfflineFinish hport hsoft w v (a := answer .badValue s) ?_
    rw [beq_false_of_ne hzero, State.setOffline_unlisted]
  · refine exec_setOfflineDrop hport hsoft w v (a := answer .badValue s) ?_
    rw [beq_false_of_ne hone, State.setOffline_unlisted]
  · refine exec_clearFaultRetry hport hsoft w v (a := answer .badValue s) ?_
    rw [beq_false_of_ne hzero, State.clearFault_unlisted]
  · refine exec_clearFaultAbandon hport hsoft w v (a := answer .badValue s) ?_
    rw [beq_false_of_ne hone, State.clearFault_unlisted]
  · have hexec := exec_seal hport hsoft w
    rwa [State.sealCommand_none h, answer_state, answer_reply] at hexec
  · have hexec := exec_release hport hsoft w
    rwa [State.releaseCommand_none h, answer_state, answer_reply] at hexec
  · have hexec := exec_discard hport hsoft w
    rwa [State.discardCommand_none h, answer_state, answer_reply] at hexec

end Sys2Proof.Machine
end

section
/-! O16. The refusals at arrival that change no group (R26, R64, R65, R67, R81, R144, R147). -/

namespace Sys2Proof.Machine

section
variable {s : State} {x : Write}

/-- A QUIESCING or FROZEN window refuses before any other test (R26). -/
theorem State.takeWrite_windowState (h : (s.win x.window).state = .quiescing ∨ (s.win x.window).state = .frozen) :
    s.takeWrite x = s.refuseWrite x .windowState := by
  rcases h with h | h <;> rw [State.takeWrite, h]

theorem State.takeWrite_mix (hon : (s.win x.window).state = .online) (hm : (s.win x.window).shape x.line x.lanes = .mix) :
    s.takeWrite x = s.refuseWrite x .markerMix := by
  rw [State.takeWrite, hon]
  change s.onlineWrite x = _
  rw [State.onlineWrite, hm]

/-- An arriving write that finds no free hold slot is refused (R147). -/
theorem State.holdWrite_full {why : HoldReason} (harrives : x.held = none) (hfull : s.freeHold? = none) (hwhy : why ≠ .areaWait) :
    s.holdWrite x why = s.refuseWrite x .holdFull := by
  cases why with
  | areaWait => exact absurd rfl hwhy
  | conflict => simp only [State.holdWrite, harrives, hfull]
  | queueFull => simp only [State.holdWrite, harrives, hfull]

end

/-- Settles O16, by the test that refuses the write; the refusal is the same in each case. -/
theorem writeRefusals : Obligations.WriteRefusals := by
  intro s r w c hclass hkind hin hcase
  have hlive : (s.win w).state.live = true := by
    rcases hcase with ⟨h | h, -⟩ | ⟨h, -⟩ | ⟨h, -⟩ | ⟨h, -⟩ | ⟨h, -⟩ <;> rw [h] <;> rfl
  obtain ⟨t, ht, hone, hexec⟩ := write_eq s r w hclass hkind hin hlive
  let a : State := s.intake t (groupRecord r w)
  let x : Write := arrivalWrite r w
  have hrefused : a.takeWrite x = a.refuseWrite x c := by
    rcases hcase with ⟨hstate, rfl⟩ | ⟨hon, hm, rfl⟩ | ⟨hon, hm, hconf, ⟨hp, rfl⟩ | ⟨hp, hfull, rfl⟩⟩ |
      ⟨hon, hsh, ⟨g, hg, hb, hs⟩, rfl⟩ | ⟨hon, hm, hno, hlen, ⟨hp, rfl⟩ | ⟨hp, hfull, rfl⟩⟩
    · exact State.takeWrite_windowState (s := a) (x := x) hstate
    · exact State.takeWrite_mix (s := a) (x := x) hon hm
    · exact State.takeWrite_conflict_refuse (s := a) (x := x) hon hm hconf hp
    · exact (State.takeWrite_conflict_hold (s := a) (x := x) hon hm hconf hp).trans
        (State.holdWrite_full (s := a) rfl ((State.freeHold?_eq_none s).2 hfull) (by decide))
    · exact State.takeWrite_broken (s := a) (x := x) hon hsh hg hb hs
    · exact State.takeWrite_full_refuse (s := a) (x := x) hon hm ⟨hno, hlen⟩ hp
    · exact (State.takeWrite_full_hold (s := a) (x := x) hon hm ⟨hno, hlen⟩ hp).trans
        (State.holdWrite_full (s := a) rfl ((State.freeHold?_eq_none s).2 hfull) (by decide))
  refine ⟨t, ht, ?_⟩
  rw [hexec, hrefused, refuseWrite_intake s r w t c hone]
  rfl

end Sys2Proof.Machine
end

section
/-! O7, O48. WRITE_WINDOW (R21 to R24, R178): which fields the block takes and what it makes of them, the comparison for a live window,
and the law of the configuration (R22, R23), which every step keeps. -/

namespace Sys2Proof.Machine

/-! ### The codes of the enumerated fields (R176) -/

section
variable (b : Byte)

theorem Trigger.ofCode?_eq_some (t : Trigger) : Trigger.ofCode? b = some t ↔ t.code = b := by
  constructor
  · intro h
    unfold Trigger.ofCode? at h
    repeat' split at h
    all_goals cases h
    all_goals exact Eq.symm ‹b = _›
  · rintro rfl
    cases t <;> decide

theorem Completion.ofCode?_eq_some (c : Completion) : Completion.ofCode? b = some c ↔ c.code = b := by
  constructor
  · intro h
    unfold Completion.ofCode? at h
    repeat' split at h
    all_goals cases h
    all_goals exact Eq.symm ‹b = _›
  · rintro rfl
    cases c <;> decide

theorem Policy.ofCode?_eq_some (p : Policy) : Policy.ofCode? b = some p ↔ p.code = b := by
  constructor
  · intro h
    unfold Policy.ofCode? at h
    repeat' split at h
    all_goals cases h
    all_goals exact Eq.symm ‹b = _›
  · rintro rfl
    cases p <;> decide

theorem AgeAction.ofCode?_eq_some (a : AgeAction) : AgeAction.ofCode? b = some a ↔ a.code = b := by
  constructor
  · intro h
    unfold AgeAction.ofCode? at h
    repeat' split at h
    all_goals cases h
    all_goals exact Eq.symm ‹b = _›
  · rintro rfl
    cases a <;> decide

theorem Trigger.exists_code_iff : (∃ t : Trigger, t.code = b) ↔ b.toNat ≤ 2 := by
  constructor
  · rintro ⟨t, rfl⟩
    cases t <;> decide
  · intro h
    have : b.toNat = 0 ∨ b.toNat = 1 ∨ b.toNat = 2 := by omega
    rcases this with h | h | h
    · exact ⟨.marker, BitVec.eq_of_toNat_eq h.symm⟩
    · exact ⟨.markerEpoch, BitVec.eq_of_toNat_eq h.symm⟩
    · exact ⟨.epoch, BitVec.eq_of_toNat_eq h.symm⟩

/-- The two codes of a field with two values. -/
theorem byte_le_one : b.toNat ≤ 1 ↔ b = 0 ∨ b = 1 := by
  constructor
  · intro h
    have : b.toNat = 0 ∨ b.toNat = 1 := by omega
    exact this.imp BitVec.eq_of_toNat_eq BitVec.eq_of_toNat_eq
  · rintro (rfl | rfl) <;> decide

theorem Completion.exists_code_iff : (∃ c : Completion, c.code = b) ↔ b.toNat ≤ 1 := by
  rw [byte_le_one]
  exact ⟨fun ⟨c, hc⟩ => by cases c <;> simp [← hc, Completion.code], fun h => h.elim (fun h => ⟨.early, h.symm⟩) fun h => ⟨.late, h.symm⟩⟩

theorem Policy.exists_code_iff : (∃ p : Policy, p.code = b) ↔ b.toNat ≤ 1 := by
  rw [byte_le_one]
  exact ⟨fun ⟨p, hp⟩ => by cases p <;> simp [← hp, Policy.code], fun h => h.elim (fun h => ⟨.refuse, h.symm⟩) fun h => ⟨.hold, h.symm⟩⟩

theorem AgeAction.exists_code_iff : (∃ a : AgeAction, a.code = b) ↔ b.toNat ≤ 1 := by
  rw [byte_le_one]
  exact ⟨fun ⟨a, ha⟩ => by cases a <;> simp [← ha, AgeAction.code], fun h => h.elim (fun h => ⟨.seal, h.symm⟩) fun h => ⟨.break_, h.symm⟩⟩

theorem Trigger.code_le_one (t : Trigger) : t.code.toNat ≤ 1 ↔ t ≠ .epoch := by cases t <;> decide

end

/-! ### The fields of WRITE_WINDOW (R22, R178) -/

/-- The three marker fields as R22 wants them. -/
def markerFieldsOk (op : WindowOperands) : Prop :=
  op.markerOffset.toNat < op.size.toNat ∧ op.laneGroup.toNat ≤ 3 ∧ op.completion.toNat ≤ 1

/-- Every field of a WRITE_WINDOW with size 1 or more is one that R22 allows. -/
def fieldsOk (op : WindowOperands) : Prop :=
  op.base.toNat % 32 = 0 ∧ op.size.toNat ≤ 33554432 ∧ op.base.toNat + 32 * op.size.toNat ≤ 2 ^ 40 ∧ op.area.toNat ≤ 7 ∧
    op.trigger.toNat ≤ 2 ∧ (op.trigger.toNat ≤ 1 → markerFieldsOk op) ∧ op.policy.toNat ≤ 1 ∧ op.holdLimit ≠ 0 ∧
    op.ageAction.toNat ≤ 1 ∧ op.enables.toNat < 256

/-- A marker record holds the command's marker fields. -/
def MarkerConfig.spells (m : MarkerConfig) (op : WindowOperands) : Prop :=
  m.offset = op.markerOffset ∧ m.laneGroup.val = op.laneGroup.toNat ∧ m.completion.code = op.completion

/-- The fields are the command's values; the marker fields are absent in EPOCH mode. -/
structure WindowFields.Spells (f : WindowFields) (op : WindowOperands) : Prop where
  base : f.base = opLine op
  size : f.size = op.size
  area : f.area.val = op.area.toNat
  trigger : f.trigger.code = op.trigger
  noMarker : f.trigger = .epoch → f.marker = none
  marker : f.trigger ≠ .epoch → ∃ m ∈ f.marker, m.spells op
  policy : f.policy.code = op.policy
  holdLimit : f.holdLimit = op.holdLimit
  ageLimit : f.ageLimit = op.ageLimit
  ageAction : f.ageAction.code = op.ageAction
  enables : f.enables = op.enables.setWidth 8

section
variable {op : WindowOperands}

theorem opLine_toNat (op : WindowOperands) : (opLine op).toNat = op.base.toNat / 32 := by
  have := op.base.isLt
  simp only [opLine, BitVec.extractLsb'_toNat, Nat.shiftRight_eq_div_pow]
  omega

/-- A base whose low five bits are zero is the byte address of its line (R2, R22). -/
theorem addr_opLine (h : op.base.toNat % 32 = 0) : Line.addr (opLine op) = op.base := by
  apply BitVec.eq_of_toNat_eq
  simp only [Line.addr, BitVec.toNat_append, opLine_toNat, BitVec.toNat_ofNat, Nat.zero_mod, Nat.or_zero, Nat.shiftLeft_eq]
  omega

theorem opRangeOk_iff : opRangeOk op = true ↔
    op.base.toNat % 32 = 0 ∧ op.size.toNat ≤ 33554432 ∧ op.base.toNat + 32 * op.size.toNat ≤ 2 ^ 40 := by
  unfold opRangeOk
  rw [Bool.and_eq_true, Bool.and_eq_true, beq_iff_eq, decide_eq_true_eq, decide_eq_true_eq, and_assoc]
  rfl

theorem opArea?_eq_some (a : AIdx) : opArea? op = some a ↔ a.val = op.area.toNat := by
  unfold opArea?
  split
  · simp [Fin.ext_iff, eq_comm]
  · simp; omega

theorem opEnables?_of_lt (h : op.enables.toNat < 256) : opEnables? op = some (op.enables.setWidth 8) := if_pos h

theorem opEnables?_none (h : 256 ≤ op.enables.toNat) : opEnables? op = none := if_neg (Nat.not_lt.2 h)

theorem opEnables?_some {en : BitVec 8} (h : opEnables? op = some en) : op.enables.toNat < 256 ∧ en = op.enables.setWidth 8 := by
  unfold opEnables? at h
  split at h
  · next hlt => exact ⟨hlt, by simpa using h.symm⟩
  · cases h

/-- The marker fields that the block takes are the command's, and R22 allows them. -/
theorem opMarkerFields_some {m : MarkerConfig} (h : opMarker?.opMarkerFields op = some m) : markerFieldsOk op ∧ m.spells op := by
  unfold opMarker?.opMarkerFields opLaneGroup? at h
  split at h
  · next g c hg hc =>
    split at h
    · next hoffset =>
      cases h
      rw [Completion.ofCode?_eq_some] at hc
      split at hg
      · next hlane =>
        cases hg
        exact ⟨⟨hoffset, by omega, (Completion.exists_code_iff _).1 ⟨c, hc⟩⟩, rfl, rfl, hc⟩
      · cases hg
    · cases h
  · cases h

theorem opMarkerFields_of_ok (h : markerFieldsOk op) : ∃ m, opMarker?.opMarkerFields op = some m := by
  obtain ⟨hoffset, hlane, hcompletion⟩ := h
  obtain ⟨c, hc⟩ := (Completion.exists_code_iff _).2 hcompletion
  rw [← Completion.ofCode?_eq_some] at hc
  have hg : opLaneGroup? op = some ⟨op.laneGroup.toNat, by omega⟩ := dif_pos (by omega)
  exact ⟨_, by rw [opMarker?.opMarkerFields, hg, hc]; exact if_pos hoffset⟩

theorem opMarker?_some {t : Trigger} {m : Option MarkerConfig} (h : opMarker? op t = some m) :
    (t = .epoch ∧ m = none) ∨ (t ≠ .epoch ∧ markerFieldsOk op ∧ ∃ y ∈ m, y.spells op) := by
  have hfields : (opMarker?.opMarkerFields op).map some = some m → markerFieldsOk op ∧ ∃ y ∈ m, y.spells op := fun h => by
    obtain ⟨y, hy, rfl⟩ := Option.map_eq_some_iff.1 h
    obtain ⟨hok, hspells⟩ := opMarkerFields_some hy
    exact ⟨hok, y, rfl, hspells⟩
  cases t with
  | marker => exact .inr ⟨by decide, hfields h⟩
  | markerEpoch => exact .inr ⟨by decide, hfields h⟩
  | epoch => exact .inl ⟨rfl, by simpa [opMarker?] using h.symm⟩

theorem opMarker?_of_ok {t : Trigger} (h : t ≠ .epoch → markerFieldsOk op) : ∃ m, opMarker? op t = some m := by
  cases t with
  | epoch => exact ⟨none, rfl⟩
  | marker => exact (opMarkerFields_of_ok (h (by decide))).imp' some fun m hm => by simp [opMarker?, hm]
  | markerEpoch => exact (opMarkerFields_of_ok (h (by decide))).imp' some fun m hm => by simp [opMarker?, hm]

/-- The fields that the block takes are the command's, and R22 allows them. -/
theorem opFields?_some {f : WindowFields} (h : opFields? op = some f) : fieldsOk op ∧ f.Spells op := by
  unfold opFields? at h
  split at h
  · next t a p act en ht ha hp hact hen =>
    rw [Trigger.ofCode?_eq_some] at ht
    rw [opArea?_eq_some] at ha
    rw [Policy.ofCode?_eq_some] at hp
    rw [AgeAction.ofCode?_eq_some] at hact
    obtain ⟨henables, hen⟩ := opEnables?_some hen
    have hmode : op.trigger.toNat ≤ 1 ↔ t ≠ .epoch := by rw [← ht, Trigger.code_le_one]
    split at h
    · next m hm =>
      split at h
      · next hrest =>
        cases h
        obtain ⟨hrange, hhold⟩ := hrest
        obtain ⟨hbase, hsize, hend⟩ := opRangeOk_iff.1 hrange
        have hm := opMarker?_some hm
        refine ⟨⟨hbase, hsize, hend, by omega, (Trigger.exists_code_iff _).1 ⟨t, ht⟩, fun h => ?_,
          (Policy.exists_code_iff _).1 ⟨p, hp⟩, hhold, (AgeAction.exists_code_iff _).1 ⟨act, hact⟩, henables⟩,
          ⟨rfl, rfl, ha, ht, fun h => ?_, fun h => ?_, hp, rfl, rfl, hact, hen⟩⟩
        · exact (hm.resolve_left fun he => hmode.1 h he.1).2.1
        · exact (hm.resolve_right fun he => he.1 h).2
        · exact (hm.resolve_left fun he => h he.1).2.2
      · cases h
    · cases h
  · cases h

theorem opFields?_of_ok (h : fieldsOk op) : ∃ f, opFields? op = some f := by
  obtain ⟨hbase, hsize, hend, harea, htrigger, hmarker, hpolicy, hhold, hage, henables⟩ := h
  obtain ⟨t, ht⟩ := (Trigger.exists_code_iff _).2 htrigger
  obtain ⟨p, hp⟩ := (Policy.exists_code_iff _).2 hpolicy
  obtain ⟨act, hact⟩ := (AgeAction.exists_code_iff _).2 hage
  have hmode : op.trigger.toNat ≤ 1 ↔ t ≠ .epoch := by rw [← ht, Trigger.code_le_one]
  obtain ⟨m, hm⟩ := opMarker?_of_ok (op := op) fun h => hmarker (hmode.2 h)
  rw [← Trigger.ofCode?_eq_some] at ht
  rw [← Policy.ofCode?_eq_some] at hp
  rw [← AgeAction.ofCode?_eq_some] at hact
  have ha : opArea? op = some ⟨op.area.toNat, by omega⟩ := (opArea?_eq_some _).2 rfl
  have hrest : opRangeOk op = true ∧ op.holdLimit ≠ 0 := ⟨opRangeOk_iff.2 ⟨hbase, hsize, hend⟩, hhold⟩
  simp only [opFields?, ht, ha, hp, hact, opEnables?_of_lt henables, hm, if_pos hrest]
  exact ⟨_, rfl⟩

theorem opFields?_none (h : ¬fieldsOk op) : opFields? op = none := by
  cases hf : opFields? op with
  | none => rfl
  | some f => exact absurd (opFields?_some hf).1 h

end

/-! ### WRITE_WINDOW for an UNUSED or OFFLINE window (R21 to R23) -/

section
variable {s : State} {w : WIdx} {op : WindowOperands} {f : WindowFields}

theorem State.overlaps_iff : s.overlaps w f = true ↔ ∃ v : WIdx, v ≠ w ∧ (s.win v).state ≠ .unused ∧
    rangesShare f.base.toNat f.size.toNat (s.win v).base.toNat (s.win v).size.toNat = true := by
  simp [State.overlaps, and_assoc]

theorem State.configureWindow_zero (hz : op.size = 0) : s.configureWindow w op = answer .ok (s.modWin w Window.cleared) := if_pos hz

theorem State.configureWindow_badValue (hz : op.size ≠ 0) (hbad : ¬fieldsOk op) : s.configureWindow w op = answer .badValue s := by
  rw [State.configureWindow, if_neg hz, opFields?_none hbad]

theorem State.configureWindow_fields (hz : op.size ≠ 0) (hf : opFields? op = some f) :
    s.configureWindow w op = if s.overlaps w f then answer .overlap s else answer .ok (s.modWin w fun x => x.configured f) := by
  rw [State.configureWindow, if_neg hz, hf]

/-! ### WRITE_WINDOW for a live window (R24) -/

theorem sameMarker_iff {x : Window} : sameMarker x op = true ↔
    (x.trigger ≠ .epoch → ∃ m ∈ x.marker, op.markerOffset = m.offset ∧ op.laneGroup.toNat = m.laneGroup.val ∧
      op.completion = m.completion.code) := by
  have hfields : sameMarker.sameMarkerFields x op = true ↔ ∃ m ∈ x.marker, op.markerOffset = m.offset ∧
      op.laneGroup.toNat = m.laneGroup.val ∧ op.completion = m.completion.code := by
    unfold sameMarker.sameMarkerFields
    split
    · next m hm => simp [hm, and_assoc]
    · next hm => simp [hm]
  unfold sameMarker
  split
  · next h => simp [h]
  · next h => simp [h, hfields]
  · next h => simp [h, hfields]

theorem sameConfig_iff {x : Window} : sameConfig x op = true ↔
    op.base = Line.addr x.base ∧ op.size = x.size ∧ op.area.toNat = x.area.val ∧ op.trigger = x.trigger.code ∧
      (x.trigger ≠ .epoch → ∃ m ∈ x.marker, op.markerOffset = m.offset ∧ op.laneGroup.toNat = m.laneGroup.val ∧
        op.completion = m.completion.code) ∧
      op.policy = x.policy.code ∧ op.holdLimit = x.holdLimit ∧ op.ageLimit = x.ageLimit ∧ op.ageAction = x.ageAction.code := by
  simp only [sameConfig, Bool.and_eq_true, beq_iff_eq, sameMarker_iff, and_assoc]

theorem exec_writeWindow (hport : s.portTakes) (hsoft : s.softReset = false) (hindex : op.index = BitVec.ofNat 8 w.val) :
    exec (.writeWindow op) s = .next ((s.writeWindow w op).state.withReply (s.writeWindow w op).reply) := by
  have hw : windowOf op.index = w := by rw [hindex, windowOf_ofNat]
  rw [exec_portAnswer (c := .writeWindow op) hport hsoft rfl (fun _ h => by cases h)
    (by rw [Instr.portCheck, hindex, windowCheck_ofNat]), State.portAnswer, hw]

end

/-- A set of window-scoped kinds, written back in the width of the operand (R177). -/
theorem setWidth_enables {en : BitVec 16} (h : en.toNat < 256) : (en.setWidth 8).setWidth 16 = en := by
  apply BitVec.eq_of_toNat_eq
  simp only [BitVec.toNat_setWidth]
  omega

/-- Settles O48: the fields are tested before the overlap, the comparison of a live window before its enables. -/
theorem writeWindow : Obligations.WriteWindow := by
  refine ⟨fun s op w hport hsoft hindex hidle => ?_, fun s op w hport hsoft hindex hlive => ?_⟩
  · have hexec := exec_writeWindow hport hsoft hindex
    rw [State.writeWindow, if_neg (by simp [hidle])] at hexec
    intro markerOk ok overlap
    refine ⟨fun hz => ?_, fun hz hbad => ?_, fun hz hok hshare => ?_, fun hz hok hapart => ?_⟩
    · rw [hexec, State.configureWindow_zero hz, answer_reply]
      rfl
    · rw [hexec, State.configureWindow_badValue hz hbad, answer_reply]
      rfl
    all_goals
      obtain ⟨f, hf⟩ := opFields?_of_ok (op := op) hok
      obtain ⟨-, hspells⟩ := opFields?_some hf
      have hoverlap : s.overlaps w f = true ↔ overlap := by
        simp only [State.overlaps_iff, rangesShare, Bool.and_eq_true, decide_eq_true_eq, hspells.base, hspells.size, opLine_toNat, overlap]
      rw [State.configureWindow_fields hz hf] at hexec
    · rw [if_pos (hoverlap.2 hshare)] at hexec
      exact hexec
    · rw [if_neg (mt hoverlap.1 hapart)] at hexec
      obtain ⟨hbase, -, -, -, -, -, -, -, -, henables⟩ := hok
      refine ⟨(s.win w).configured f, hexec, rfl, ?_, hspells.size, hspells.area, hspells.trigger, hspells.noMarker, hspells.marker,
        hspells.policy, hspells.holdLimit, hspells.ageLimit, hspells.ageAction, ?_, rfl, rfl, rfl, rfl, rfl⟩
      · exact (congrArg Line.addr hspells.base).trans (addr_opLine hbase)
      · exact (congrArg (BitVec.setWidth 16) hspells.enables).trans (setWidth_enables henables)
  · have hexec := exec_writeWindow hport hsoft hindex
    rw [State.writeWindow, if_pos hlive, State.writeEnables] at hexec
    refine ⟨fun hdiffers => ?_, fun hsame hhigh => ?_, fun hsame hlow => ?_⟩
    · rw [if_neg (mt sameConfig_iff.1 hdiffers)] at hexec
      exact hexec
    · rw [if_pos (sameConfig_iff.2 hsame), opEnables?_none hhigh] at hexec
      exact hexec
    · rw [if_pos (sameConfig_iff.2 hsame), opEnables?_of_lt hlow] at hexec
      exact hexec

/-! ### The law of the configuration (R22, R23) -/

section
variable {s : State} {w : WIdx} {op : WindowOperands} {f : WindowFields}

/-- A record of the command's fields is well configured (R22). -/
theorem configLaw_configured (x : Window) (hz : op.size ≠ 0) (hf : opFields? op = some f) : (x.configured f).configLaw := by
  obtain ⟨⟨hbase, hsize, hend, -, -, hmarker, -, hhold, -⟩, hspells⟩ := opFields?_some hf
  have hpos : op.size.toNat ≠ 0 := fun h => hz (BitVec.eq_of_toNat_eq h)
  have hmode : op.trigger.toNat ≤ 1 ↔ f.trigger ≠ .epoch := by rw [← hspells.trigger, Trigger.code_le_one]
  refine .inr ⟨?_, ?_, ?_, ⟨fun h => ?_, hspells.noMarker⟩, fun m hm => ?_, ?_⟩
  · simp only [Window.configured, hspells.size]
    omega
  · simp only [Window.configured, hspells.size, Config.maxWindowLines]
    exact hsize
  · simp only [Window.configured, hspells.size, hspells.base, opLine_toNat]
    omega
  · by_contra hne
    obtain ⟨m, hm, -⟩ := hspells.marker hne
    simp only [Window.configured] at h
    simp [h] at hm
  · have hne : f.trigger ≠ .epoch := fun h => by
      have := hspells.noMarker h
      simp only [Window.configured] at hm
      simp [this] at hm
    obtain ⟨y, hy, hoffset, -⟩ := hspells.marker hne
    obtain rfl : y = m := Option.mem_unique hy hm
    simp only [Window.configured, hspells.size, hoffset]
    exact (hmarker (hmode.2 hne)).1
  · simp only [Window.configured, hspells.holdLimit]
    exact hhold

/-- A window's record takes a value that is well configured and shares no line with another window. -/
theorem configLaw_setWin {x : Window} (hx : x.configLaw)
    (hapart : x.state ≠ .unused → ∀ v, v ≠ w → (s.win v).state ≠ .unused →
      rangesShare x.base.toNat x.size.toNat (s.win v).base.toNat (s.win v).size.toNat = false)
    (h : s.configLaw) : (s.setWin w x).configLaw := by
  obtain ⟨hlaw, hdisjoint⟩ := h
  refine ⟨fun v => ?_, fun u v huv hu hv => ?_⟩
  · rw [State.win_setWin]
    split
    · exact hx
    · exact hlaw v
  · by_cases huw : u = w
    · subst huw
      have hvu : v ≠ u := fun e => huv e.symm
      rw [State.win_setWin_same] at hu ⊢
      rw [State.win_setWin_other _ _ hvu] at hv ⊢
      exact hapart hu v hvu hv
    · rw [State.win_setWin_other _ _ huw] at hu ⊢
      by_cases hvw : v = w
      · subst hvw
        rw [State.win_setWin_same] at hv ⊢
        rw [rangesShare_comm]
        exact hapart hv u huw hu
      · rw [State.win_setWin_other _ _ hvw] at hv ⊢
        exact hdisjoint u v huv hu hv

theorem configLaw_zero : ∀ {s : State}, s.windows = Vector.replicate 16 Window.zero → s.configLaw := fun {s} h => by
  have hwin : ∀ v, s.win v = Window.zero := fun v => by simp [State.win, h]
  exact ⟨fun v => .inl (by rw [hwin]; rfl), fun u v _ hu => absurd (by rw [hwin]; rfl) hu⟩

theorem writeWindow_keeps_configLaw (h : s.configLaw) (w : WIdx) (op : WindowOperands) : (s.writeWindow w op).state.configLaw := by
  unfold State.writeWindow
  split
  · unfold State.writeEnables
    split
    · split
      · exact h
      · exact configLaw_setWin (h.1 w) (fun hu v hv hvu => h.2 w v (Ne.symm hv) hu hvu) h
    · exact h
  · by_cases hz : op.size = 0
    · rw [State.configureWindow_zero hz]
      exact configLaw_setWin (.inl rfl) (fun hu => absurd rfl hu) h
    · cases hf : opFields? op with
      | none => rw [State.configureWindow, if_neg hz, hf]; exact h
      | some f =>
        rw [State.configureWindow_fields hz hf]
        split
        · exact h
        · next hapart =>
          refine configLaw_setWin (configLaw_configured _ hz hf) (fun _ v hv hu => ?_) h
          rw [← Bool.not_eq_true]
          exact fun hshare => hapart (State.overlaps_iff.2 ⟨v, hv, hu, hshare⟩)

end

/-- Settles O7: the operations on write groups keep every window's configuration, WRITE_WINDOW tests what it writes, and the resets leave
no window configured. -/
theorem stepKeepsConfigLaw : Obligations.StepKeepsConfigLaw := by
  intro s t hs h
  have hclosed := config_closed.keeps State.configLaw fun _ _ => configLaw_congr
  refine hclosed.step s t (fun c rest _ hexec => ?_) h hs
  refine hclosed.exec (fun s hs => ?_) (fun _ _ => configLaw_zero rfl) (fun s n hs => ?_) (fun s w op hs => writeWindow_keeps_configLaw hs w op)
    (fun s a first count hs => ?_) c _ t hexec
  · unfold State.softResetCheck
    split
    · exact configLaw_zero (by simp [State.endSoftReset])
    · exact hs
  · unfold State.popEvents
    split <;> exact hs
  · unfold State.writeArea
    repeat' split
    all_goals exact hs

end Sys2Proof.Machine
end

section
/-! SUPPORT. A law of the group queues, the entries and the hold list: what the queues' own changes keep, every taking keeps. `QueueLaw`
lists those changes; one lemma for each operation follows, and one for a step. A law may allow for the number of groups that may still open
in a taking, as the numbers of R25 do. -/

namespace Sys2Proof.Machine

/-! ### What such a law reads -/

/-- The hold slot and the window of a held write. -/
def Held.key (h : Held) : HoldNo × WIdx := (h.slot, h.window)

/-- `y` has the queue of `x`, its state and what goes with it, its next group number and its area. -/
def Window.sameQueue (x y : Window) : Prop :=
  y.state = x.state ∧ y.frozenFrom = x.frozenFrom ∧ y.quiesceMode = x.quiesceMode ∧ y.groups = x.groups ∧ y.nextGroup = x.nextGroup ∧
    y.area = x.area

theorem Window.sameQueue.refl (x : Window) : x.sameQueue x := ⟨rfl, rfl, rfl, rfl, rfl, rfl⟩

/-- The windows' queues, the areas, the slots and a soft reset are as they were; held writes may have left the list. -/
structure SameQueues (s t : State) : Prop where
  win : ∀ w : WIdx, (s.win w).sameQueue (t.win w)
  areas : t.areas = s.areas
  slots : t.slots = s.slots
  softReset : t.softReset = s.softReset
  holds : (t.holds.map Held.key).Sublist (s.holds.map Held.key)

namespace SameQueues

variable {s t u : State}

theorem state (h : SameQueues s t) (w : WIdx) : (t.win w).state = (s.win w).state := (h.win w).1

theorem groups (h : SameQueues s t) (w : WIdx) : (t.win w).groups = (s.win w).groups := (h.win w).2.2.2.1

theorem oldest (h : SameQueues s t) (w : WIdx) : t.oldest w = s.oldest w := congrArg List.head? (h.groups w)

theorem youngest (h : SameQueues s t) (w : WIdx) : t.youngest w = s.youngest w := congrArg List.getLast? (h.groups w)

theorem refl (s : State) : SameQueues s s := ⟨fun _ => .refl _, rfl, rfl, rfl, List.Sublist.refl _⟩

theorem trans (h : SameQueues s t) (k : SameQueues t u) : SameQueues s u := by
  refine ⟨fun w => ?_, k.areas.trans h.areas, k.slots.trans h.slots, k.softReset.trans h.softReset, k.holds.trans h.holds⟩
  obtain ⟨h1, h2, h3, h4, h5, h6⟩ := h.win w
  obtain ⟨k1, k2, k3, k4, k5, k6⟩ := k.win w
  exact ⟨k1.trans h1, k2.trans h2, k3.trans h3, k4.trans h4, k5.trans h5, k6.trans h6⟩

theorem of_holds (hw : t.windows = s.windows) (ha : t.areas = s.areas) (hs : t.slots = s.slots) (hr : t.softReset = s.softReset)
    (hh : (t.holds.map Held.key).Sublist (s.holds.map Held.key)) : SameQueues s t :=
  ⟨fun w => by rw [State.win, State.win, hw]; exact .refl _, ha, hs, hr, hh⟩

theorem of_eq (hw : t.windows = s.windows) (ha : t.areas = s.areas) (hs : t.slots = s.slots) (hr : t.softReset = s.softReset)
    (hh : t.holds = s.holds) : SameQueues s t :=
  of_holds hw ha hs hr (by rw [hh])

/-- The reason or the mark of a held write changes. -/
theorem of_marks (f : Held → Held) (hf : ∀ h, (f h).key = h.key) (hw : t.windows = s.windows) (ha : t.areas = s.areas)
    (hs : t.slots = s.slots) (hr : t.softReset = s.softReset) (hh : t.holds = s.holds.map f) : SameQueues s t := by
  refine of_holds hw ha hs hr ?_
  rw [hh, List.map_map, show Held.key ∘ f = Held.key from funext hf]

/-- Window `w`'s record changes outside its queue. -/
theorem modWin (s : State) (w : WIdx) {f : Window → Window} (hf : (s.win w).sameQueue (f (s.win w))) : SameQueues s (s.modWin w f) := by
  refine ⟨fun v => ?_, rfl, rfl, rfl, List.Sublist.refl _⟩
  rw [State.win_modWin]
  split
  · next h => rw [h]; exact hf
  · exact .refl _

theorem bumpRefused (s : State) (w : WIdx) : SameQueues s (s.bumpRefused w) := modWin s w ⟨rfl, rfl, rfl, rfl, rfl, rfl⟩

theorem bumpDiscarded (s : State) (w : WIdx) : SameQueues s (s.bumpDiscarded w) := modWin s w ⟨rfl, rfl, rfl, rfl, rfl, rfl⟩

theorem bumpPublished (s : State) (w : WIdx) : SameQueues s (s.bumpPublished w) := modWin s w ⟨rfl, rfl, rfl, rfl, rfl, rfl⟩

theorem bumpBroken (s : State) (w : WIdx) : SameQueues s (s.bumpBroken w) := modWin s w ⟨rfl, rfl, rfl, rfl, rfl, rfl⟩

theorem offer (s : State) (e : EventBody) : SameQueues s (s.offer e) := of_eq (by simp) (by simp) (by simp) (by simp) (by simp)

theorem post (s : State) (w : WIdx) (e : EventBody) : SameQueues s (s.post w e) := of_eq (by simp) (by simp) (by simp) (by simp) (by simp)

theorem answerPending (s : State) (g : Group) (r : Result) : SameQueues s (s.answerPending g r) :=
  of_eq (by simp) (by simp) (by simp) (by simp) (by simp)

theorem waitWrite (s : State) (src : Source) (tag : Tag) (wt : Wait) : SameQueues s (s.waitWrite src tag wt) :=
  of_eq (by simp) (by simp) (by simp) (by simp) (by simp)

theorem mapCredits (s : State) (f : Credit → Credit) : SameQueues s (s.mapCredits f) :=
  of_eq (by simp) (by simp) (by simp) (by simp) (by simp)

theorem windowTrigger (s : State) (w : WIdx) : SameQueues s (s.windowTrigger w) :=
  of_marks (fun h => if h.window = w then { h with pending := true } else h) (fun h => by split <;> rfl) rfl rfl rfl rfl rfl

theorem areaTrigger (s : State) (a : AIdx) : SameQueues s (s.areaTrigger a) :=
  of_marks (fun h => if h.reason = .areaWait ∧ (s.win h.window).joined a = true then { h with pending := true } else h)
    (fun h => by split <;> rfl) rfl rfl rfl rfl rfl

theorem unpend (s : State) (k : HoldNo) : SameQueues s (s.unpend k) :=
  of_marks (fun h => if h.slot = k then { h with pending := false } else h) (fun h => by split <;> rfl) rfl rfl rfl rfl rfl

theorem endHold (s : State) (x : Write) : SameQueues s (s.endHold x) := by
  unfold State.endHold
  split
  · exact of_holds rfl rfl rfl rfl (List.filter_sublist.map _)
  · exact .refl s

theorem endWrite (s : State) (x : Write) (r : Result) : SameQueues s (s.endWrite x r) :=
  (endHold s x).trans (of_eq (by simp [State.endWrite]) (by simp [State.endWrite]) (by simp [State.endWrite]) (by simp [State.endWrite])
    (by simp [State.endWrite]))

theorem refuseWrite (s : State) (x : Write) (c : Cause) : SameQueues s (s.refuseWrite x c) :=
  (endWrite s x .refused).trans ((post _ _ _).trans (bumpRefused _ _))

theorem refuseHeld (s : State) (w : WIdx) : SameQueues s (s.refuseHeld w) := by
  have hfold : ∀ (l : List Held) (s : State), SameQueues s (l.foldl (fun s h => s.refuseWrite h.toWrite .windowState) s) := fun l => by
    induction l with
    | nil => exact refl
    | cons h l ih => exact fun s => (refuseWrite s _ _).trans (ih _)
  exact hfold _ s

theorem takeRead (s : State) (t : RecNo) (w : WIdx) (src : Source) (l : Line) (lanes : Lanes) :
    SameQueues s (s.takeRead t w src l lanes) := by
  unfold State.takeRead
  dsimp only
  split <;> exact of_eq rfl rfl rfl rfl rfl

end SameQueues

/-! ### The changes of a queue -/

/-- The table law but for the law of a soft reset: every window's own record, and the hold list. -/
def State.groupLaw (s : State) : Prop := (∀ w : WIdx, (s.win w).law) ∧ s.holdLaw

/-- What the drain engine may make of a window's oldest record, entries and number kept: its counts change, or it is taken, or its marker
is next (R103, R104, R110). -/
def Group.drainsTo (g y : Group) (x : Window) : Prop :=
  y.number = g.number ∧ y.entryCount = g.entryCount ∧
    (y.state = g.state ∨ (g.state = .released ∧ x.state ≠ .frozen ∧ y.state = .draining) ∨
      ((g.state = .released ∧ x.state ≠ .frozen ∨ g.state = .draining) ∧ y.state = .marking ∧ g.entryCount = 0))

/-- The record of window `w`'s oldest group as a drain failure leaves it (R114, R115). -/
def Group.failed (g : Group) (line : Line) : Group := { g with state := .faulted, failedLine := some line }

/-- Window `w` freezes behind its oldest group `g`, which has failed (R35, R114, R115). -/
def State.frozenBehind (s : State) (w : WIdx) (g : Group) (line : Line) : State :=
  (s.setOldest w (g.failed line)).freezeWindow w (g.failed line) line

/-- The abandonment of window `w`'s oldest record `g`, before R103 is tested (R121). -/
def State.abandoned (s : State) (w : WIdx) (g : Group) : State :=
  ((((((s.freeGroupSlots w g.number).mapCredits fun c => c.orphaned w g.number).answerPending g .failed).post w
    (evGroupDiscarded w g .abandon)).bumpDiscarded w).modWin w fun x => { x with groups := x.groups.tail }).windowTrigger w

/-- Window `w` quiesces, its held writes refused (R30). -/
def State.quiesced (s : State) (w : WIdx) (m : QuiesceMode) : State :=
  (s.modWin w fun x => { x with state := .quiescing, quiesceMode := some m }).refuseHeld w

/-- A law of the group queues: `P k` of a state in which `k` counts the groups opened lately. -/
structure QueueLaw (P : Nat → State → Prop) : Prop where
  table : ∀ {k s}, P k s → s.groupLaw
  mono : ∀ {k s}, P k s → P (k + 1) s
  same : ∀ {k s t}, P k s → SameQueues s t → P k t
  mapSlots : ∀ {k s f}, (∀ e : Entry, (f e).slot = e.slot ∧ (f e).key = e.key) → P k s → P k { s with slots := s.slots.map f }
  holds : ∀ {k s} {h : Held}, (∀ y ∈ s.holds, y.slot ≠ h.slot) → (s.win h.window).state = .online → P k s →
    P k { s with holds := s.holds ++ [h] }
  opens : ∀ {k s w} (src : Source), k < 255 → (s.win w).state = .online → s.noOpenGroup w →
    (s.win w).groups.length < Config.groupRecords → P k s → P (k + 1) (s.openGroup w src)
  seals : ∀ {k s w g} (c : SealCause) (m : Option MarkerData) (pm : Option (Source × Tag)), s.youngest w = some g → g.state = .opened →
    P k s → P k (s.setYoungest w (g.sealedBy c m pm))
  breaks : ∀ {k s w g} (c : Cause) (l : Option Line), s.youngest w = some g → g.state = .opened → P k s → P k (s.breakOpen w c l)
  discards : ∀ {k s w g} (c : Cause), g ∈ (s.win w).groups → g.state.unreleased = true → P k s → P k (s.discardGroup w g c)
  releases : ∀ {k s} w (e : Option (BitVec 16)), P k s → P k (s.releaseSealed w e)
  drains : ∀ {k s w g y}, s.oldest w = some g → g.drainsTo y (s.win w) → P k s → P k (s.setOldest w y)
  publishes : ∀ {k s w g}, s.oldest w = some g → (g.state = .draining ∧ g.entryCount = 0 ∨ g.state = .marking) → P k s →
    P k (s.publishOldest w g)
  allocates : ∀ {k s} {x : Write} {g j}, s.youngest x.window = some g → g.state = .opened →
    s.freeSlot? (s.win x.window).area = some j → P k s → P k (s.allocate x g j)
  acks : ∀ {k s w g e}, s.oldest w = some g → e ∈ s.slots → e.ofGroup w g.number = true → P k s → P k (s.freeAcked w g e)
  ends : ∀ {k s w}, (s.win w).state = .quiescing → (s.win w).groups = [] → P k s →
    P k (s.modWin w fun x => { x with state := .offline, quiesceMode := none })
  freezes : ∀ {k s w g} (l : Line), s.softReset = false → s.oldest w = some g → (g.state = .draining ∨ g.state = .marking) → P k s →
    P k (s.frozenBehind w g l)
  softFails : ∀ {k s w g} (l : Line), s.softReset = true → s.oldest w = some g → (g.state = .draining ∨ g.state = .marking) → P k s →
    P k (((s.frozenBehind w g l).modWin w Window.unfreeze).abandoned w (g.failed l))
  retries : ∀ {k s w g}, (s.win w).state = .frozen → s.oldest w = some g → P k s →
    P k ((s.modWin w Window.unfreeze).setOldest w
      { g with state := if g.entryCount = 0 then .marking else .draining, failedLine := none })
  abandons : ∀ {k s w g}, (s.win w).state = .frozen → s.oldest w = some g → P k s →
    P k ((s.modWin w Window.unfreeze).abandoned w g)
  quiescesDrop : ∀ {k s w}, (s.win w).state = .online → P k s → P k ((s.quiesced w .drop).discardUnreleased w .quiesce)
  quiescesFinish : ∀ {k s w}, (s.win w).state = .online → P k s →
    P k ((((s.quiesced w .finish).sealOpen w .manual none none).discardYoungestIf w .broken .quiesce).releaseSealed w none)
  turnsToDrop : ∀ {k s w}, (s.win w).state = .quiescing → P k s → P k (s.modWin w fun x => { x with quiesceMode := some .drop })
  unmarks : ∀ {k s} w, P k s → P k (s.unmark w)

/-! ### What the table law says of a queue -/

section
variable {s : State} {w : WIdx} {g : Group}

theorem State.mem_of_oldest (h : s.oldest w = some g) : g ∈ (s.win w).groups := List.mem_of_head? h

theorem State.mem_of_youngest (h : s.youngest w = some g) : g ∈ (s.win w).groups := List.mem_of_getLast? h

/-- Only an ONLINE window holds an OPEN group (R27, R33, R35). -/
theorem State.groupLaw.online_of_opened (h : s.groupLaw) (hg : g ∈ (s.win w).groups) (ho : g.state = .opened) :
    (s.win w).state = .online := by
  obtain ⟨-, hidle, -, -, hquiescing, hfrozen, -⟩ := h.1 w
  cases hs : (s.win w).state with
  | online => rfl
  | unused => exact absurd hg (by rw [hidle (by rw [hs]; rfl)]; exact List.not_mem_nil)
  | offline => exact absurd hg (by rw [hidle (by rw [hs]; rfl)]; exact List.not_mem_nil)
  | quiescing => exact absurd (hquiescing (.inl hs) g hg) (by rw [ho]; decide)
  | frozen => exact absurd ho ((hfrozen hs).2 g hg)

/-- The oldest group of a FROZEN window is FAULTED (R35). -/
theorem State.groupLaw.faulted_of_frozen (h : s.groupLaw) (hs : (s.win w).state = .frozen) :
    ∃ g, s.oldest w = some g ∧ g.state = .faulted := by
  obtain ⟨-, -, -, -, -, hfrozen, -⟩ := h.1 w
  exact Option.map_eq_some_iff.1 (hfrozen hs).1

end

/-- A fold of operations that keep a predicate keeps it. -/
theorem foldl_keeps {α β : Type} {p : β → Prop} {f : β → α → β} (hf : ∀ b a, p b → p (f b a)) (l : List α) {b : β} (h : p b) :
    p (l.foldl f b) := by
  induction l generalizing b with
  | nil => exact h
  | cons a l ih => exact ih (hf b a h)

/-! ### Seal, break, discard -/

namespace QueueLaw

variable {P : Nat → State → Prop} {k : Nat} {s : State} {w : WIdx} {g : Group}

theorem mono' (hP : QueueLaw P) {m : Nat} (hm : k ≤ m) (h : P k s) : P m s := by
  induction hm with
  | refl => exact h
  | step _ ih => exact hP.mono ih

variable (hP : QueueLaw P)
include hP

theorem sealOpen (c : SealCause) (m : Option MarkerData) (pm : Option (Source × Tag)) (h : P k s) : P k (s.sealOpen w c m pm) := by
  unfold State.sealOpen
  split
  · next g hg =>
    split
    · next ho => exact hP.same (hP.seals c m pm hg ho h) (.windowTrigger _ w)
    · exact h
  · exact h

theorem breakOpen (c : Cause) (l : Option Line) (h : P k s) : P k (s.breakOpen w c l) := by
  by_cases hopen : ∃ g ∈ s.youngest w, g.state = .opened
  · obtain ⟨g, hg, ho⟩ := hopen
    exact hP.breaks c l hg ho h
  · rw [State.breakOpen_none fun g hg ho => hopen ⟨g, hg, ho⟩]
    exact h

theorem discardYoungestIf {st : GState} (hst : st.unreleased = true) (c : Cause) (h : P k s) : P k (s.discardYoungestIf w st c) := by
  unfold State.discardYoungestIf
  split
  · next g hg =>
    split
    · next hs => exact hP.discards c (State.mem_of_youngest hg) (by rw [hs]; exact hst) h
    · exact h
  · exact h

/-- Groups of the queue, none of them released, are discarded one by one. -/
theorem discards_all {l : List Group} (c : Cause) (hl : l.Subperm (s.win w).groups) (hu : ∀ g ∈ l, g.state.unreleased = true)
    (h : P k s) : P k (l.foldl (fun s g => s.discardGroup w g c) s) := by
  induction l generalizing s with
  | nil => exact h
  | cons g l ih =>
    refine ih ?_ (fun y hy => hu y (by simp [hy])) (hP.discards c (hl.subset (by simp)) (hu g (by simp)) h)
    rw [State.win_discardGroup]
    change l.Subperm ((s.win w).groups.diff [g])
    simpa using hl.erase g

theorem discardUnreleased (c : Cause) (h : P k s) : P k (s.discardUnreleased w c) :=
  hP.discards_all c List.filter_sublist.subperm (fun _ hg => (List.mem_filter.1 hg).2) h

/-! ### Publication, taking, release -/

theorem offlineIfEmpty (h : P k s) : P k (s.offlineIfEmpty w) := by
  unfold State.offlineIfEmpty
  split
  · next hend => exact hP.same (hP.ends hend.1 hend.2 h) (.post _ w _)
  · exact h

theorem takeLoop (n : Nat) (h : P k s) : P k (State.takeLoop n s w) := by
  induction n generalizing s with
  | zero => exact h
  | succ n ih =>
    unfold State.takeLoop
    split
    · exact h
    · next g hg =>
      split
      · next htake =>
        simp only [State.canTake, Bool.and_eq_true, beq_iff_eq, bne_iff_ne] at htake
        obtain ⟨⟨hreleased, hfrozen⟩, -⟩ := htake
        have htaken : P k (s.setOldest w g.taken) := hP.drains hg ⟨rfl, rfl, .inr (.inl ⟨hreleased, hfrozen, rfl⟩)⟩ h
        split
        · next hempty =>
          split
          · exact hP.drains hg ⟨rfl, rfl, .inr (.inr ⟨.inl ⟨hreleased, hfrozen⟩, rfl, hempty⟩)⟩ h
          · exact ih (hP.publishes (State.oldest_setOldest _) (.inl ⟨rfl, hempty⟩) htaken)
        · exact htaken
      · exact h

theorem drainTake (h : P k s) : P k (s.drainTake w) := hP.offlineIfEmpty (hP.takeLoop _ h)

theorem publish (hg : s.oldest w = some g) (hdone : g.state = .draining ∧ g.entryCount = 0 ∨ g.state = .marking) (h : P k s) :
    P k (s.publish w g) := hP.drainTake (hP.publishes hg hdone h)

theorem releaseAll (e : Option (BitVec 16)) (h : P k s) : P k (s.releaseAll w e) := by
  unfold State.releaseAll
  split
  · exact hP.drainTake (hP.releases w e h)
  · exact h

theorem afterSeal (h : P k s) : P k (s.afterSeal w) := by
  unfold State.afterSeal
  split
  · exact hP.releaseAll none h
  · exact h
  · exact h

/-! ### A write taken by the window controller -/

theorem holdWrite (x : Write) (why : HoldReason) (hon : (s.win x.window).state = .online) (h : P k s) : P k (s.holdWrite x why) := by
  unfold State.holdWrite
  split
  · next j _ =>
    exact hP.same h (.of_marks (fun h => if h.slot = j then { h with reason := why } else h) (fun h => by split <;> rfl) rfl rfl rfl rfl
      rfl)
  · split
    · next j hj => exact hP.same (hP.holds ((s.freeHold?_eq_some j).1 hj).1 hon h) (.waitWrite _ _ _ _)
    · have hrefused : P k (s.refuseWrite x .holdFull) := hP.same h (.refuseWrite s x _)
      split
      · exact hP.breakOpen _ _ hrefused
      · exact hrefused
      · exact hrefused

theorem coalesce (x : Write) (e : Entry) (h : P k s) : P k (s.coalesce x e) := by
  refine hP.same (hP.mapSlots (fun y => ?_) h) (.endWrite _ x .done)
  split
  · exact coalesced_same y x
  · exact ⟨rfl, rfl⟩

theorem stage (x : Write) (hg : s.youngest x.window = some g) (ho : g.state = .opened) (h : P k s) : P k (s.stage x g) := by
  have hon := (hP.table h).online_of_opened (State.mem_of_youngest hg) ho
  unfold State.stage
  split
  · exact hP.coalesce x _ h
  · split
    · next j hj => exact hP.allocates hg ho hj h
    · unfold State.exhausted
      split
      · exact hP.holdWrite x _ hon h
      · exact hP.breakOpen _ _ (hP.same h (.refuseWrite s x _))

theorem markerSeal (x : Write) (lg : Fin 4) (c : Completion) (h : P k s) : P k (s.markerSeal x lg c) := by
  unfold State.markerSeal
  split
  · exact hP.afterSeal (hP.sealOpen _ _ _ (hP.same h (.endWrite s x _)))
  · exact hP.afterSeal (hP.sealOpen _ _ _ (hP.same h ((SameQueues.endHold s x).trans (.waitWrite _ _ _ _))))

theorem ownerWrite (x : Write) (sh : Shape) (hg : s.youngest x.window = some g) (ho : g.state = .opened) (h : P k s) :
    P k (s.ownerWrite x sh g) := by
  unfold State.ownerWrite
  split
  · exact hP.stage x hg ho h
  · exact hP.markerSeal x _ _ h
  · exact hP.same h (.refuseWrite s x _)

theorem brokenWrite (x : Write) (sh : Shape) (hg : s.youngest x.window = some g) (hb : g.state = .broken) (h : P k s) :
    P k (s.brokenWrite x sh g) := by
  have hrefused := SameQueues.refuseWrite s x .broken
  unfold State.brokenWrite
  split
  · exact hP.same h hrefused
  · refine hP.discards _ ?_ (by rw [hb]; rfl) (hP.same h hrefused)
    rw [hrefused.groups]
    exact State.mem_of_youngest hg
  · exact hP.same h (.refuseWrite s x _)

theorem conflictWrite (x : Write) (hon : (s.win x.window).state = .online) (h : P k s) : P k (s.conflictWrite x) := by
  unfold State.conflictWrite
  split
  · exact hP.same h (.refuseWrite s x _)
  · exact hP.holdWrite x _ hon h

theorem queueFullWrite (x : Write) (hon : (s.win x.window).state = .online) (h : P k s) : P k (s.queueFullWrite x) := by
  unfold State.queueFullWrite
  split
  · exact hP.same h (.refuseWrite s x _)
  · exact hP.holdWrite x _ hon h

theorem openingWrite (x : Write) (sh : Shape) (hk : k < 255) (hon : (s.win x.window).state = .online) (hno : s.noOpenGroup x.window)
    (hroom : (s.win x.window).groups.length < Config.groupRecords) (h : P k s) : P (k + 1) (s.openingWrite x sh) := by
  have hyoung : (s.openGroup x.window x.source).youngest x.window = some (s.newGroup x.window x.source) := by
    simp [State.youngest, State.openGroup, State.newGroup]
  rw [State.openingWrite, hyoung]
  exact hP.ownerWrite x sh hyoung rfl (hP.opens x.source hk hon hno hroom h)

theorem newGroupWrite (x : Write) (sh : Shape) (hk : k < 255) (hon : (s.win x.window).state = .online) (hno : s.noOpenGroup x.window)
    (h : P k s) : P (k + 1) (s.newGroupWrite x sh) := by
  unfold State.newGroupWrite
  split
  · next hroom => exact hP.openingWrite x sh hk hon hno hroom h
  · exact hP.mono (hP.queueFullWrite x hon h)

theorem groupTests (x : Write) (sh : Shape) (hk : k < 255) (hon : (s.win x.window).state = .online) (h : P k s) :
    P (k + 1) (s.groupTests x sh) := by
  by_cases hno : s.noOpenGroup x.window
  · rw [State.groupTests_new hno]
    exact hP.newGroupWrite x sh hk hon hno h
  · obtain ⟨g, hg, hearly⟩ : ∃ g ∈ s.youngest x.window, g.state.sealedOrLater ≠ true := by simpa [State.noOpenGroup] using hno
    have hstate : g.state = .opened ∨ g.state = .broken := by
      cases hs : g.state <;> rw [hs] at hearly <;> simp_all [GState.sealedOrLater]
    refine hP.mono ?_
    by_cases hown : g.owner = x.source
    · rcases hstate with ho | hb
      · rw [State.groupTests_owner hg ho hown]
        exact hP.ownerWrite x sh hg ho h
      · rw [State.groupTests_broken hg hb hown]
        exact hP.brokenWrite x sh hg hb h
    · rw [State.groupTests_conflict hg hstate hown]
      exact hP.conflictWrite x hon h

theorem takeWrite (x : Write) (hk : k < 255) (h : P k s) : P (k + 1) (s.takeWrite x) := by
  have hrefused : ∀ c, P (k + 1) (s.refuseWrite x c) := fun c => hP.mono (hP.same h (.refuseWrite s x c))
  unfold State.takeWrite
  split
  · next hon =>
    unfold State.onlineWrite
    split
    · exact hrefused _
    · exact hP.groupTests x _ hk hon h
    · exact hP.groupTests x _ hk hon h
  all_goals exact hrefused _

/-! ### The hold unit, the timers, the epoch unit -/

theorem reevaluate (j : HoldNo) (hk : k < 255) (h : P k s) : P (k + 1) (s.reevaluate j) := by
  unfold State.reevaluate
  split
  · exact hP.takeWrite _ hk (hP.same h (.unpend s j))
  · exact hP.mono h

/-- A pass opens a group for a pending write at the most. -/
theorem pass_slots (l : List HoldNo) (hk : k + l.length ≤ 255) (h : P k s) : P (k + l.length) (l.foldl State.reevaluate s) := by
  induction l generalizing s k with
  | nil => exact h
  | cons j l ih =>
    rw [List.length_cons] at hk ⊢
    have := ih (by omega) (hP.reevaluate j (by omega) h)
    rwa [Nat.add_assoc, Nat.add_comm 1] at this

theorem pass (hk : k + 8 ≤ 255) (h : P k s) : P (k + 8) s.pass := by
  obtain ⟨-, hslots, -⟩ := hP.table h
  have hlen : s.pendingSlots.length ≤ 8 := by
    have hnodup : s.pendingSlots.Nodup := hslots.sublist (List.filter_sublist.map _)
    simpa using hnodup.length_le_card
  exact hP.mono' (by omega) (hP.pass_slots _ (by omega) h)

theorem holdExpiry (j : HoldNo) (h : P k s) : P k (s.holdExpiry j) := by
  have hexpired : ∀ x : Held, P k (s.holdRefused x) := fun x =>
    hP.same h ((SameQueues.endWrite s _ _).trans ((SameQueues.post _ _ _).trans (.bumpRefused _ _)))
  unfold State.holdExpiry
  split
  · next x _ =>
    split
    · by_cases hbreaks : x.reason = .areaWait ∧ s.ownsOpen x
      · rw [State.expireHeld_breaks hbreaks.1 hbreaks.2]
        exact hP.breakOpen _ _ (hexpired x)
      · rw [State.expireHeld_no_break (not_and_or.1 hbreaks)]
        exact hexpired x
    · exact h
  · exact h

theorem ageExpiry (h : P k s) : P k (s.ageExpiry w) := by
  unfold State.ageExpiry
  split
  · split
    · split
      · unfold State.ageOut
        split
        · exact hP.afterSeal (hP.same (hP.sealOpen _ _ _ h) (.post _ w _))
        · exact hP.breakOpen _ _ h
      · exact h
    · exact h
  · exact h

theorem tick (h : P k s) : P k s.tick :=
  foldl_keeps (p := P k) (fun _ _ => hP.ageExpiry) _ (hP.same h (.of_eq rfl rfl rfl rfl rfl))

theorem epochDeliver (h : P k s) : P k (s.epochDeliver w) := by
  unfold State.epochDeliver
  split
  · exact h
  · next rest _ =>
    have hdue : P k (s.setDue w rest) := hP.same h (.of_eq rfl rfl rfl rfl rfl)
    unfold State.epochAt State.epochAct
    split
    · split
      · exact hdue
      · exact hP.releaseAll _ hdue
      · exact hP.releaseAll _ (hP.discardYoungestIf rfl _ (hP.sealOpen _ _ _ hdue))
    · exact hdue

theorem epochEvent (d : EpochDelivery) (h : P k s) : P k (s.epochEvent d) := by
  refine foldl_keeps (p := P k) (fun _ _ => hP.epochDeliver) _ (foldl_keeps (p := P k) (fun u l hu => ?_) _ h)
  unfold State.epochSample
  split <;> exact hP.same hu (.of_eq rfl rfl rfl rfl rfl)

/-! ### The drain engine's responses, abandonment -/

end QueueLaw

theorem State.abandonFaulted_eq {s : State} {w : WIdx} {g : Group} (hg : s.oldest w = some g) (hf : g.state = .faulted) :
    s.abandonFaulted w = (s.abandoned w g).drainTake w := by
  rw [State.abandonFaulted, hg]
  exact if_pos hf

theorem State.oldest_unfreeze (s : State) (w v : WIdx) : (s.modWin w Window.unfreeze).oldest v = s.oldest v := by
  rw [State.oldest, State.win_modWin]
  split
  · unfold Window.unfreeze
    split <;> rfl
  · rfl

/-- The oldest record stays what it is while its window freezes. -/
theorem State.oldest_frozenBehind {s : State} {w : WIdx} {g : Group} (hg : s.oldest w = some g) (l : Line) :
    (s.frozenBehind w g l).oldest w = some (g.failed l) := by
  obtain ⟨rest, hgroups⟩ : ∃ rest, (s.win w).groups = g :: rest := List.head?_eq_some_iff.1 hg
  let a : State := ((((s.setOldest w (g.failed l)).modWin w Window.freeze).post w (evGroupFaulted w (g.failed l) l)).refuseHeld w)
  have ha : (a.win w).groups = g.failed l :: rest := by
    rw [(SameQueues.refuseHeld _ w).groups, State.win_post, State.win_modWin_same]
    have hfreeze : ∀ x : Window, x.freeze.groups = x.groups := fun x => by unfold Window.freeze; split <;> rfl
    rw [hfreeze, State.setOldest, State.win_modWin_same, hgroups]
    rfl
  change (a.breakOpen w .freeze none).oldest w = _
  by_cases hopen : ∃ y ∈ a.youngest w, y.state = .opened
  · obtain ⟨y, hy, ho⟩ := hopen
    rw [State.breakOpen_some hy ho, State.oldest, State.bumpBroken, State.win_modWin_same, State.win_post, State.setYoungest,
      State.win_modWin_same, State.win_freeGroupSlots, ha]
    cases rest with
    | nil =>
      rw [State.youngest, ha] at hy
      obtain rfl : g.failed l = y := by simpa using hy
      cases ho
    | cons z rest => rfl
  · rw [State.breakOpen_none fun y hy ho => hopen ⟨y, hy, ho⟩, State.oldest, ha]
    rfl

namespace QueueLaw

variable {P : Nat → State → Prop} {k : Nat} {s : State} {w : WIdx} {g : Group} (hP : QueueLaw P)
include hP

/-- The FAULTED group of a FROZEN window is abandoned as the window returns to frozen-from (R37, R121). -/
theorem unfreeze_abandonFaulted (hfrozen : (s.win w).state = .frozen) (h : P k s) :
    P k ((s.modWin w Window.unfreeze).abandonFaulted w) := by
  obtain ⟨g, hg, hfaulted⟩ := (hP.table h).faulted_of_frozen hfrozen
  rw [State.abandonFaulted_eq ((s.oldest_unfreeze w w).trans hg) hfaulted]
  exact hP.drainTake (hP.abandons hfrozen hg h)

theorem drainFailure (l : Line) (hg : s.oldest w = some g) (hdrains : g.state = .draining ∨ g.state = .marking) (h : P k s) :
    P k (s.drainFailure w l) := by
  have hsame : (s.frozenBehind w g l).softReset = s.softReset := by
    have hout : s.sameOutsideGroups (s.frozenBehind w g l) :=
      same_closed.trans (same_closed.setOldest s w (g.failed l)) (same_closed.freezeWindow _ w (g.failed l) l)
    rw [hout]
  have heq : s.drainFailure w l = if (s.frozenBehind w g l).softReset then
      ((s.frozenBehind w g l).modWin w Window.unfreeze).abandonFaulted w else s.frozenBehind w g l := by
    rw [State.drainFailure, hg]
    rfl
  rw [heq, hsame]
  split
  · next hsoft =>
    rw [State.abandonFaulted_eq ((State.oldest_unfreeze _ w w).trans (State.oldest_frozenBehind hg l)) rfl]
    exact hP.drainTake (hP.softFails l hsoft hg hdrains h)
  · next hsoft => exact hP.freezes l (by simpa using hsoft) hg hdrains h

theorem afterAck (h : P k s) : P k (s.afterAck w) := by
  unfold State.afterAck
  split
  · exact h
  · next g hg =>
    split
    · next hdone =>
      split
      · exact hP.drains hg ⟨rfl, rfl, .inr (.inr ⟨.inr hdone.1, rfl, hdone.2⟩)⟩ h
      · exact hP.publish hg (.inl hdone) h
    · exact h

theorem entryAnswered {e : Entry} (hg : s.oldest w = some g) (he : e ∈ s.slots) (heg : e.ofGroup w g.number = true) (r : Result)
    (h : P k s) : P k (s.entryAnswered w g e r) := by
  have hfailed : P k (s.entryFailed w g e) := by
    have hslot : P k { s with slots := s.slots.map fun (y : Entry) => if y.slot = e.slot then { y with state := .failed } else y } :=
      hP.mapSlots (fun y => by split <;> exact ⟨rfl, rfl⟩) h
    have hfail : P k (s.failEntry w g e) := hP.drains (g := g) hg ⟨rfl, rfl, .inl rfl⟩ hslot
    unfold State.entryFailed
    dsimp only
    split
    · next hdraining => exact hP.drainFailure _ (State.oldest_setOldest _) (.inl hdraining) hfail
    · exact hfail
  cases r with
  | done => exact hP.same (hP.afterAck (hP.acks hg he heg h)) (.areaTrigger _ _)
  | refused => exact hfailed
  | failed => exact hfailed

theorem entryResponse (n : Byte) (q : Nat) (r : Result) (h : P k s) : P k (s.entryResponse w n q r) := by
  unfold State.entryResponse
  split
  · next g e hg he =>
    split
    · next hn =>
      have hclient := List.find?_some he
      simp only [Entry.isClient, Bool.and_eq_true] at hclient
      exact hP.entryAnswered hg (List.mem_of_find?_eq_some he) (by rw [hn]; exact hclient.1) r h
    · exact h
  · exact h

theorem markerResponse (n : Byte) (r : Result) (h : P k s) : P k (s.markerResponse w n r) := by
  unfold State.markerResponse
  split
  · next g m hg _ =>
    split
    · next hmarking =>
      have hset : P k (s.setOldest w { g with outstanding := 0 }) := hP.drains hg ⟨rfl, rfl, .inl rfl⟩ h
      cases r with
      | done => exact hP.publish (State.oldest_setOldest _) (.inr hmarking.1) hset
      | refused => exact hP.drainFailure _ (State.oldest_setOldest _) (.inr hmarking.1) hset
      | failed => exact hP.drainFailure _ (State.oldest_setOldest _) (.inr hmarking.1) hset
    · exact h
  · exact h

theorem drainResponse (cl : DrainClient) (r : Result) (h : P k s) : P k (s.drainResponse cl r) := by
  cases cl with
  | entry w n q => exact hP.entryResponse n q r h
  | marker w n => exact hP.markerResponse n r h
  | orphan w => exact iteInduction (fun _ => h) fun _ => hP.drainTake h

/-- A downstream response, given that the end of a soft reset keeps the law. -/
theorem downResponse (hend : ∀ {s}, P k s → P k s.softResetCheck) (c : CreditNo) (r : Result) (d : LineData) (h : P k s) :
    P k (s.downResponse c r d) := by
  have hfreed : P k (s.setCredit c .free) := hP.same h (.of_eq rfl rfl rfl rfl rfl)
  unfold State.downResponse
  split
  · exact h
  · split
    · exact h
    · exact hfreed
    · exact hP.same hfreed (.of_eq rfl rfl rfl rfl rfl)
    · exact hend (hP.drainResponse _ r hfreed)

/-! ### Requests, responses, grants -/

theorem classify (t : RecNo) (r : UpRequest) (hk : k < 255) (h : P k s) : P (k + 1) (s.classify t r) := by
  have hpass : P (k + 1) (s.passRequest t r) := hP.mono (hP.same h (.of_eq rfl rfl rfl rfl rfl))
  unfold State.classify
  split
  · exact hpass
  · split
    · unfold State.windowRequest
      split
      · exact hP.mono (hP.same h (SameQueues.trans (t := s.setRcd t _) (.of_eq rfl rfl rfl rfl rfl) (.takeRead _ _ _ _ _ _)))
      · exact hP.takeWrite _ hk (hP.same (t := s.setRcd t _) h (.of_eq rfl rfl rfl rfl rfl))
    · exact hpass

theorem receive (r : UpRequest) (hk : k < 255) (h : P k s) : P (k + 1) (s.receive r) := by
  unfold State.receive State.accept
  split
  · split
    · split
      · exact hP.mono (hP.same h (.of_eq rfl rfl rfl rfl rfl))
      · exact hP.classify _ r hk (hP.same (t := s.clearChannel) h (.of_eq rfl rfl rfl rfl rfl))
    · exact hP.mono h
  · exact hP.mono (hP.same h (.of_eq rfl rfl rfl rfl rfl))

theorem acceptWaiting (hk : k < 255) (h : P k s) : P (k + 1) s.acceptWaiting := by
  unfold State.acceptWaiting
  split
  · split
    · exact hP.receive _ hk h
    · exact hP.mono h
  · exact hP.mono h

theorem present (r : UpRequest) (hk : k < 254) (h : P k s) : P (k + 2) (s.present r) := by
  unfold State.present
  split
  · exact hP.mono (hP.receive r (by omega) h)
  · exact hP.receive r (by omega) (hP.acceptWaiting (by omega) h)

theorem grantOne (h : P k s) : P k s.grantOne := by
  unfold State.grantOne
  split
  · exact h
  · split
    · unfold State.grantForwarder
      split
      · exact h
      · split <;> exact hP.same h (.of_eq rfl rfl rfl rfl rfl)
    · unfold State.grantDrain
      split
      · exact h
      · next w _ =>
        split
        · next g e hg _ =>
          have hslots : P k { s with slots := s.slots.map fun (y : Entry) => if y.slot = e.slot then { y with state := .issued } else y } :=
            hP.mapSlots (fun y => by split <;> exact ⟨rfl, rfl⟩) h
          have hissued := fun hg => hP.drains (w := w) (g := g) (y := g.issuedEntry e) hg ⟨rfl, rfl, .inl rfl⟩ hslots
          exact hP.same (hissued hg) (.of_eq rfl rfl rfl rfl rfl)
        · next g hg _ =>
          unfold State.grantMarker
          split
          · exact hP.same (hP.drains (y := { g with outstanding := 1 }) hg ⟨rfl, rfl, .inl rfl⟩ h) (.of_eq rfl rfl rfl rfl rfl)
          · exact h
        · exact h
    · exact h

/-! ### Link reset and soft reset -/

theorem linkReset (order : List WIdx) (h : P k s) : P k (s.linkReset order) := by
  have hdropped : P k s.dropRequests :=
    hP.same h (.of_holds (by simp [State.dropRequests]) (by simp [State.dropRequests]) (by simp [State.dropRequests])
      (by simp [State.dropRequests]) (by simp [State.dropRequests]))
  refine foldl_keeps (p := P k) (fun u w hu => ?_) _ (hP.same hdropped (.offer _ _))
  rw [State.linkResetWindow_eq]
  exact hP.discardYoungestIf rfl _ (hP.discardYoungestIf rfl _ (hP.unmarks w hu))

theorem quiesceDrop (hon : (s.win w).state = .online) (h : P k s) : P k (s.quiesceDrop w) :=
  hP.offlineIfEmpty (hP.quiescesDrop hon h)

theorem softAbandon (h : P k s) : P k (s.softAbandon w) := by
  unfold State.softAbandon
  split
  · next hfrozen => exact hP.unfreeze_abandonFaulted hfrozen h
  · exact h

theorem softQuiesce (h : P k s) : P k (s.softQuiesce w) := by
  unfold State.softQuiesce
  split
  · next hon => exact hP.quiesceDrop hon h
  · next hq => exact hP.turnsToDrop hq h
  all_goals exact h

/-- The two steps of a soft reset, at every window. -/
theorem softSteps (o q : List WIdx) (h : P k s) :
    P k ((visitOrder q).foldl State.softQuiesce ((visitOrder o).foldl State.softAbandon s)) :=
  foldl_keeps (p := P k) (fun _ _ => hP.softQuiesce) _ (foldl_keeps (p := P k) (fun _ _ => hP.softAbandon) _ h)

end QueueLaw

end Sys2Proof.Machine
end

section
/-! SUPPORT. A law of the group queues through the commands of the management port and through a step. -/

namespace Sys2Proof.Machine

/-- A command outside the permitted set acts only where no soft reset is in progress (R173). -/
theorem exec_port_gated {c : Instr} (hc : c.isPortCommand = true) {s t : State} (h : exec c s = .next t) :
    t = s ∨ ∃ bytes, t = s.withReply bytes ∨
      ((c.isPermitted = true ∨ s.softReset = false) ∧ t = (s.portAnswer c).state.withReply bytes) := by
  by_cases hact : c.isPermitted = true ∨ s.softReset = false
  · obtain heq | ⟨bytes, heq | heq⟩ := exec_port_cases c hc h
    · exact .inl heq
    · exact .inr ⟨bytes, .inl heq⟩
    · exact .inr ⟨bytes, .inr ⟨hact, heq⟩⟩
  · obtain ⟨hgated, hsoft⟩ : c.isPermitted = false ∧ s.softReset = true := by simpa using hact
    have hk : ∀ code, c = .badCommand code → knownCodes.contains code = false := fun code hcode => by
      subst hcode
      cases hgated
    rw [exec_port_eq c hc hk, hgated] at h
    unfold State.take at h
    injection h with h
    rw [if_pos (c := (!false) = true ∧ s.softReset = true) ⟨rfl, hsoft⟩] at h
    subst h
    split
    · exact .inr ⟨_, .inl (Answer.placed_eq _)⟩
    · exact .inl rfl

theorem State.setGroups_self (s : State) (w : WIdx) : s.setGroups w (s.win w).groups = s := by
  change s.setWin w (s.win w) = s
  rw [State.setWin, State.win]
  exact congrArg (fun v => { s with windows := v }) (Vector.set_getElem_self _)

theorem State.releaseSealed_none {s : State} {w : WIdx} (h : s.holdsSealed w = false) (e : Option (BitVec 16)) :
    s.releaseSealed w e = s := by
  have hkept : (s.win w).groups.map (fun g => g.releasedAt e) = (s.win w).groups := by
    refine (List.map_congr_left fun g hg => if_neg fun hs => ?_).trans (List.map_id _)
    have hsealed : s.holdsSealed w = true := List.any_eq_true.2 ⟨g, hg, by simp [hs]⟩
    rw [h] at hsealed
    cases hsealed
  rw [State.releaseSealed_eq, hkept, State.setGroups_self]

/-- The drain engine finds nothing new to take where no group was released. -/
theorem State.releaseAll_cases (s : State) (w : WIdx) (e : Option (BitVec 16)) :
    s.releaseAll w e = (s.releaseSealed w e).drainTake w ∨ s.releaseAll w e = s.releaseSealed w e := by
  by_cases h : s.holdsSealed w = true
  · exact .inl (if_pos h)
  · exact .inr (by rw [State.releaseAll, if_neg h, State.releaseSealed_none (by simpa using h)])

/-- SET_OFFLINE changes nothing but by the quiesce of an ONLINE window. -/
theorem State.setOffline_keeps {p : State → Prop} {s : State} {w : WIdx} (listed : Bool) {q : State → State}
    (hq : (s.win w).state = .online → p (q s)) (h : p s) : p (s.setOffline w listed q).state := by
  unfold State.setOffline
  split
  · split
    · next hon => exact hq hon
    all_goals exact h
  · exact h

/-- CLEAR_FAULT changes nothing but in a FROZEN window. -/
theorem State.clearFault_keeps {p : State → Prop} {s : State} {w : WIdx} (listed : Bool) {act : State → State}
    (hact : (s.win w).state = .frozen → p (act (s.modWin w Window.unfreeze))) (h : p s) : p (s.clearFault w listed act).state := by
  unfold State.clearFault
  split
  · split
    · next hfrozen => exact hact hfrozen
    · exact h
  · exact h

/-- A law of the group queues that the commands of the port and the resets keep too. -/
structure StepLaw (P : Nat → State → Prop) : Prop extends QueueLaw P where
  ended : ∀ {k s}, P k s → P k s.softResetCheck
  poweredOn : ∀ {k} (s : State), P k s.powerOn
  configures : ∀ {k s} (w : WIdx) (op : WindowOperands), P k s → P k (s.writeWindow w op).state
  extents : ∀ {k s} (a : AIdx) (first count : Nat), P k s → P k (s.writeArea a first count).state
  onlines : ∀ {k s w}, s.softReset = false → (s.win w).state = .offline → P k s →
    P k (s.modWin w fun x => { x with state := .online })
  begins : ∀ {k s} (o q : List WIdx), P k s → P k (s.beginSoftReset o q)

namespace StepLaw

variable {P : Nat → State → Prop} {k : Nat} {s t : State} {w : WIdx} (hP : StepLaw P)
include hP

theorem fields (h : P k s) (hw : t.windows = s.windows) (ha : t.areas = s.areas) (hs : t.slots = s.slots)
    (hr : t.softReset = s.softReset) (hh : t.holds = s.holds) : P k t := hP.same h (.of_eq hw ha hs hr hh)

/-! ### The commands of the port -/

theorem setOnline (hsoft : s.softReset = false) (h : P k s) : P k (s.setOnline w).state := by
  unfold State.setOnline
  split
  · next hoff => exact hP.onlines hsoft hoff.1 h
  · exact h

theorem quiesceFinish (hon : (s.win w).state = .online) (h : P k s) : P k (s.quiesceFinish w) := by
  have hreleased := hP.quiescesFinish hon h
  let a : State := ((s.quiesced w .finish).sealOpen w .manual none none).discardYoungestIf w .broken .quiesce
  change P k ((a.releaseAll w none).offlineIfEmpty w)
  refine hP.offlineIfEmpty ?_
  obtain heq | heq := a.releaseAll_cases w none
  · rw [heq]
    exact hP.drainTake hreleased
  · rw [heq]
    exact hreleased

theorem sealCommand (h : P k s) : P k (s.sealCommand w).state := by
  unfold State.sealCommand
  split
  · exact hP.afterSeal (hP.sealOpen _ _ _ h)
  · exact h

theorem releaseCommand (h : P k s) : P k (s.releaseCommand w).state := by
  unfold State.releaseCommand
  split
  · exact hP.releaseAll _ h
  · exact h

theorem discardCommand (h : P k s) : P k (s.discardCommand w).state := by
  unfold State.discardCommand
  split
  · exact hP.discardUnreleased _ h
  · exact h

/-- RETRY returns the window to frozen-from and its faulted group to the drain engine (R37, R119). -/
theorem unfreeze_retryFaulted (hfrozen : (s.win w).state = .frozen) (h : P k s) :
    P k (((s.modWin w Window.unfreeze).retryFaulted w).drainTake w) := by
  obtain ⟨g, hg, hfaulted⟩ := (hP.table h).faulted_of_frozen hfrozen
  have hretry : (s.modWin w Window.unfreeze).retryFaulted w = (s.modWin w Window.unfreeze).setOldest w
      { g with state := if g.entryCount = 0 then .marking else .draining, failedLine := none } := by
    rw [State.retryFaulted, State.oldest_unfreeze, hg]
    exact if_pos hfaulted
  rw [hretry]
  exact hP.drainTake (hP.retries hfrozen hg h)

/-- What a command of the port does in its block, outside the permitted set only without a soft reset in progress. -/
theorem portAnswer (h : P k s) (c : Instr) (hc : c.isPortCommand = true) (hgate : c.isPermitted = true ∨ s.softReset = false) :
    P k (s.portAnswer c).state := by
  match c, hc with
  | .badCommand _, _ | .identify, _ | .readWindows _ _, _ | .readGroups _, _ | .readAreas _ _, _ | .readSlots _ _, _ => exact h
  | .writeWindow op, _ => exact hP.configures _ op h
  | .setOnline _, _ => exact hP.setOnline (hgate.resolve_left Bool.false_ne_true) h
  | .setOfflineFinish _ _, _ =>
    rw [State.portAnswer]
    exact State.setOffline_keeps (p := P k) _ (fun hon => hP.quiesceFinish hon h) h
  | .setOfflineDrop _ _, _ =>
    rw [State.portAnswer]
    exact State.setOffline_keeps (p := P k) _ (fun hon => hP.quiesceDrop hon h) h
  | .seal _, _ => exact hP.sealCommand h
  | .release _, _ => exact hP.releaseCommand h
  | .discard _, _ => exact hP.discardCommand h
  | .clearFaultRetry _ _, _ =>
    rw [State.portAnswer]
    exact State.clearFault_keeps (p := P k) _ (fun hfrozen => hP.unfreeze_retryFaulted hfrozen h) h
  | .clearFaultAbandon _ _, _ =>
    rw [State.portAnswer]
    exact State.clearFault_keeps (p := P k) _ (fun hfrozen => hP.unfreeze_abandonFaulted hfrozen h) h
  | .writeArea _ _ _, _ => exact hP.extents _ _ _ h
  | .popEvents _, _ =>
    rw [State.portAnswer, State.popEvents]
    split
    · exact hP.fields h rfl rfl rfl rfl rfl
    · exact h
  | .readStats _ _, _ =>
    rw [State.portAnswer, State.readStats]
    dsimp only
    split
    · exact hP.same h (.modWin s _ ⟨rfl, rfl, rfl, rfl, rfl, rfl⟩)
    · exact h
  | .softReset o q, _ => exact hP.begins o q h

theorem execPort (c : Instr) (hc : c.isPortCommand = true) (s t : State) (hexec : exec c s = .next t) (h : P k s) : P k t := by
  obtain rfl | ⟨bytes, rfl | ⟨hgate, rfl⟩⟩ := exec_port_gated hc hexec
  · exact h
  · exact hP.fields h rfl rfl rfl rfl rfl
  · exact hP.fields (hP.portAnswer h c hc hgate) rfl rfl rfl rfl rfl

theorem clocks (mdi : List Bool) (h : P k s) : P k (s.clocks mdi) :=
  clocks_keep (R := fun s t => P k s → P k t) (fun _ => id) (fun h1 h2 => h2 ∘ h1)
    (fun _ _ _ _ _ _ h => hP.fields h rfl rfl rfl rfl rfl) hP.execPort s mdi h

theorem serialRun (r : SerialRun) (h : P k s) : P k (s.serialRun r) := by
  unfold State.serialRun
  split
  · exact hP.fields (hP.clocks r.mdi h) rfl rfl rfl rfl rfl
  · exact hP.clocks r.mdi h

/-! ### A step -/

/-- A command that is none of the port's; a re-evaluation pass opens 8 groups at the most. -/
theorem execOther (c : Instr) (hc : c.isPortCommand = false) (hexec : exec c s = .next t) (hk : k + 8 ≤ 255) (h : P k s) :
    P (k + 8) t := by
  have result : ∀ {u : State} {m : Nat}, (Host.Outcome.next u : Host.Outcome State Fault Refusal) = .next t → m ≤ k + 8 → P m u →
      P (k + 8) t := fun heq hm hu => by
    injection heq with heq
    rw [← heq]
    exact hP.mono' hm hu
  match c, hc, hexec with
  | .upstreamRequest r, _, hexec => exact result hexec (by omega) (hP.present r (by omega) h)
  | .upstreamResponse t, _, hexec =>
    refine result hexec (Nat.le_add_right k 8) ?_
    unfold State.respond
    split
    · exact hP.fields h rfl rfl rfl rfl rfl
    · exact h
  | .grant, _, hexec => exact result hexec (by omega) (hP.grantOne h)
  | .downstreamIssue, _, hexec =>
    refine result hexec (Nat.le_add_right k 8) ?_
    unfold State.issueOne
    split
    · exact hP.fields h rfl rfl rfl rfl rfl
    · exact h
  | .downstreamResponse c r d, _, hexec => exact result hexec (by omega) (hP.downResponse hP.ended c r d h)
  | .reevaluationPass, _, hexec => exact result hexec le_rfl (iteInduction (fun _ => hP.mono' (by omega) h) fun _ => hP.pass hk h)
  | .epochEvent d, _, hexec => exact result hexec (Nat.le_add_right k 8) (iteInduction (fun _ => h) fun _ => hP.epochEvent d h)
  | .ageExpiry _, _, hexec => exact result hexec (Nat.le_add_right k 8) (iteInduction (fun _ => h) fun _ => hP.ageExpiry h)
  | .holdExpiry j, _, hexec => exact result hexec (Nat.le_add_right k 8) (iteInduction (fun _ => h) fun _ => hP.holdExpiry j h)
  | .linkReset o, _, hexec =>
    exact result hexec (Nat.le_add_right k 8) (iteInduction (fun _ => h) fun _ =>
      iteInduction (fun _ => hP.fields h rfl rfl rfl rfl rfl) fun _ => hP.linkReset o h)
  | .linkResetRelease, _, hexec => exact result hexec (Nat.le_add_right k 8) (hP.fields h rfl rfl rfl rfl rfl)
  | .powerOnReset, _, hexec => exact result hexec le_rfl (hP.poweredOn s)
  | .powerOnResetRelease _, _, hexec =>
    exact result hexec (Nat.le_add_right k 8) (iteInduction (fun _ => hP.fields h rfl rfl rfl rfl rfl) fun _ => h)
  | .transactionEndsEarly r, _, hexec =>
    exact result hexec (Nat.le_add_right k 8) (iteInduction (fun _ => h) fun _ => hP.serialRun r h)
  | .usTick, _, hexec => exact result hexec (Nat.le_add_right k 8) (iteInduction (fun _ => h) fun _ => hP.tick h)
  | .transactionStart, _, hexec =>
    exact result hexec (Nat.le_add_right k 8) (iteInduction (fun _ => h) fun _ => hP.fields h rfl rfl rfl rfl rfl)

theorem idle (hk : k < 255) (h : P k s) : P (k + 1) s.idle := by
  unfold State.idle
  split
  · exact hP.mono (hP.epochDeliver h)
  · exact hP.acceptWaiting hk h

theorem step (hk : k + 8 ≤ 255) (hstep : step s = .next t) (h : P k s) : P (k + 8) t := by
  unfold Machine.step at hstep
  split at hstep
  · next c rest _ =>
    have hrest : P k { s with pending := rest } := hP.fields h rfl rfl rfl rfl rfl
    cases hc : c.isPortCommand with
    | true => exact hP.mono' (by omega) (hP.execPort c hc _ _ hstep hrest)
    | false => exact hP.execOther c hc hstep hk hrest
  · injection hstep with hstep
    rw [← hstep]
    exact hP.mono' (by omega) (hP.idle (by omega) h)

end StepLaw

end Sys2Proof.Machine
end

section
/-! SUPPORT. The law of the window records (R20, R27, R33, R35, R61) and of the hold list (R145), through each change of a queue. -/

namespace Sys2Proof.Machine

/-! ### The shape of a queue, change by change (R61) -/

/-- `b` may stand where `a` stood: no group is opened or faulted, and no released one is unreleased. -/
abbrev GState.mayBecome (a b : GState) : Prop :=
  (a.releasedOrLater = true → b.releasedOrLater = true) ∧ (b = .opened → a = .opened) ∧ (b = .faulted → a = .faulted)

theorem GState.mayBecome.refl (a : GState) : a.mayBecome a := ⟨id, id, id⟩

/-- The records of a queue stand in the order of their places (R61). -/
def shaped (l : List Group) : Prop :=
  l.length ≤ Config.groupRecords ∧ l.Pairwise fun a b => a.state.mayPrecede b.state

theorem Window.queueShape_iff {x : Window} : x.queueShape ↔ shaped x.groups := Iff.rfl

theorem shaped.sublist {l m : List Group} (h : shaped m) (hl : l.Sublist m) : shaped l :=
  ⟨hl.length_le.trans h.1, h.2.sublist hl⟩

theorem shaped.map {l : List Group} (h : shaped l) {f : Group → Group}
    (hf : ∀ a b : Group, a.state.mayPrecede b.state → (f a).state.mayPrecede (f b).state) : shaped (l.map f) :=
  ⟨by rw [List.length_map]; exact h.1, List.pairwise_map.2 (h.2.imp fun hab => hf _ _ hab)⟩

theorem shaped.setHead {g y : Group} {l : List Group} (h : shaped (g :: l)) (hy : y.state.rank ≤ g.state.rank) : shaped (y :: l) := by
  obtain ⟨hlen, hpair⟩ := h
  obtain ⟨hhead, hrest⟩ := List.pairwise_cons.1 hpair
  refine ⟨hlen, List.pairwise_cons.2 ⟨fun b hb => ?_, hrest⟩⟩
  obtain ⟨hle, hlt, hpos⟩ := hhead b hb
  exact ⟨hy.trans hle, hy.trans_lt hlt, hpos⟩

theorem shaped.setLast {g y : Group} {l : List Group} (h : shaped (l ++ [g])) (hy : 2 ≤ y.state.rank) : shaped (l ++ [y]) := by
  obtain ⟨hlen, hpair⟩ := h
  obtain ⟨hinit, -, hlast⟩ := List.pairwise_append.1 hpair
  refine ⟨by simpa using hlen, List.pairwise_append.2 ⟨hinit, List.pairwise_singleton _ _, fun a ha b hb => ?_⟩⟩
  obtain rfl := List.mem_singleton.1 hb
  obtain ⟨-, hlt, -⟩ := hlast a ha g (by simp)
  exact ⟨by omega, hlt, by omega⟩

/-- A group opens behind groups that are SEALED or later. -/
theorem shaped.opens {g : Group} {l : List Group} (h : shaped l) (hroom : l.length < Config.groupRecords) (hg : g.state = .opened)
    (hlast : ∀ y ∈ l.getLast?, y.state.sealedOrLater = true) : shaped (l ++ [g]) := by
  refine ⟨by simpa using hroom, List.pairwise_append.2 ⟨h.2, List.pairwise_singleton _ _, fun a ha b hb => ?_⟩⟩
  obtain rfl := List.mem_singleton.1 hb
  have hearly : a.state.rank < 3 := by
    rcases List.eq_nil_or_concat l with rfl | ⟨init, y, rfl⟩
    · cases ha
    · rw [List.concat_eq_append] at ha h hlast
      rcases List.mem_append.1 ha with ha | ha
      · exact ((List.pairwise_append.1 h.2).2.2 a ha y (by simp)).2.1
      · obtain rfl := List.mem_singleton.1 ha
        have := hlast a (by simp)
        cases hs : a.state <;> simp_all [GState.sealedOrLater, GState.rank]
  rw [hg]
  exact ⟨hearly.le, hearly, by decide⟩

/-- Behind the oldest record none is drained. -/
theorem shaped.not_drained {g y : Group} {l : List Group} (h : shaped (g :: l)) (hy : y ∈ l) : 0 < y.state.rank :=
  ((List.pairwise_cons.1 h.2).1 y hy).2.2

/-! ### The record of a window, change by change -/

section
variable {x y : Window}

theorem Window.sameQueue.law (h : x.sameQueue y) (hx : x.law) : y.law := by
  obtain ⟨h1, h2, h3, h4, -, -⟩ := h
  unfold Window.law Window.queueShape
  rw [h1, h2, h3, h4]
  exact hx

/-- The queue of a window changes, its state does not. -/
theorem Window.law.requeue (h : x.law) (hstate : y.state = x.state) (hfrom : y.frozenFrom = x.frozenFrom)
    (hmode : y.quiesceMode = x.quiesceMode) (hshape : shaped y.groups)
    (hmem : ∀ b ∈ y.groups, ∃ a ∈ x.groups, a.state.mayBecome b.state)
    (hhead : x.state = .frozen → y.groups.head?.map Group.state = some .faulted) : y.law := by
  obtain ⟨-, hidle, hfrozenFrom, hquiesceMode, hreleased, hfrozen, hfaulted⟩ := h
  unfold Window.law
  rw [hstate, hfrom, hmode]
  refine ⟨hshape, fun hl => ?_, hfrozenFrom, hquiesceMode, fun hq b hb => ?_, fun hf => ⟨hhead hf, fun b hb ho => ?_⟩,
    fun b hb hb' => ?_⟩
  · refine List.eq_nil_iff_forall_not_mem.2 fun b hb => ?_
    obtain ⟨a, ha, -⟩ := hmem b hb
    rw [hidle hl] at ha
    cases ha
  all_goals obtain ⟨a, ha, hrel, hopen, hfault⟩ := hmem b hb
  · exact hrel (hreleased hq a ha)
  · exact (hfrozen hf).2 a ha (hopen ho)
  · exact hfaulted a ha (hfault hb')

/-- A window's record in ONLINE. -/
theorem Window.law_online (h : x.state = .online) :
    x.law ↔ shaped x.groups ∧ x.frozenFrom = none ∧ x.quiesceMode = none ∧ ∀ g ∈ x.groups, g.state ≠ .faulted := by
  unfold Window.law
  rw [h]
  cases x.frozenFrom <;> cases x.quiesceMode <;> simp [WState.live, shaped]

/-- A window's record in QUIESCING (R33). -/
theorem Window.law_quiescing (h : x.state = .quiescing) :
    x.law ↔ shaped x.groups ∧ x.frozenFrom = none ∧ x.quiesceMode.isSome = true ∧
      ∀ g ∈ x.groups, g.state.releasedOrLater = true ∧ g.state ≠ .faulted := by
  unfold Window.law
  rw [h]
  cases x.frozenFrom <;> cases x.quiesceMode <;> simp [WState.live, shaped, forall_and]

/-- A window's record in FROZEN (R35). -/
theorem Window.law_frozen (h : x.state = .frozen) :
    x.law ↔ shaped x.groups ∧ x.frozenFrom.isSome = true ∧ x.quiesceMode = none ∧
      (x.frozenFrom = some .quiescing → ∀ g ∈ x.groups, g.state.releasedOrLater = true) ∧
      x.groups.head?.map Group.state = some .faulted ∧ ∀ g ∈ x.groups, g.state ≠ .opened := by
  unfold Window.law
  rw [h]
  cases x.frozenFrom <;> cases x.quiesceMode <;> simp [WState.live, shaped, and_assoc]

/-- A window's record in UNUSED and OFFLINE (R27). -/
theorem Window.law_idle (h : x.state.live = false) : x.law ↔ x.groups = [] ∧ x.frozenFrom = none ∧ x.quiesceMode = none := by
  have hnot : x.state ≠ .frozen ∧ x.state ≠ .quiescing := by
    constructor <;> intro hs <;> rw [hs] at h <;> cases h
  unfold Window.law Window.queueShape
  constructor
  · rintro ⟨-, hidle, hfrom, hmode, -⟩
    refine ⟨hidle h, ?_, ?_⟩
    · simpa [hnot.1] using hfrom
    · simpa [hnot.2] using hmode
  · rintro ⟨hg, hf, hm⟩
    simp [hg, hf, hm, hnot]

theorem Window.unfreeze_groups (x : Window) : x.unfreeze.groups = x.groups := by
  unfold Window.unfreeze
  split <;> rfl

/-- A FROZEN window returns to frozen-from with no FAULTED group left (R37). -/
theorem Window.law.unfrozen (h : x.law) (hfrozen : x.state = .frozen) (hstate : y.state = x.unfreeze.state)
    (hfrom : y.frozenFrom = x.unfreeze.frozenFrom) (hmode : y.quiesceMode = x.unfreeze.quiesceMode) (hshape : shaped y.groups)
    (hmem : ∀ b ∈ y.groups, b.state ≠ .faulted ∧ ∃ a ∈ x.groups, a.state.mayBecome b.state) : y.law := by
  obtain ⟨-, hsome, -, hreleased, -, -⟩ := (Window.law_frozen hfrozen).1 h
  obtain ⟨f, hf⟩ := Option.isSome_iff_exists.1 hsome
  cases f with
  | online =>
    simp only [Window.unfreeze, hfrozen, hf] at hstate hfrom hmode
    have hq : x.quiesceMode = none := ((Window.law_frozen hfrozen).1 h).2.2.1
    exact (Window.law_online hstate).2 ⟨hshape, hfrom, hmode.trans hq, fun b hb => (hmem b hb).1⟩
  | quiescing =>
    simp only [Window.unfreeze, hfrozen, hf] at hstate hfrom hmode
    refine (Window.law_quiescing hstate).2 ⟨hshape, hfrom, by rw [hmode]; rfl, fun b hb => ⟨?_, (hmem b hb).1⟩⟩
    obtain ⟨a, ha, hrel, -⟩ := (hmem b hb).2
    exact hrel (hreleased hf a ha)

end

end Sys2Proof.Machine
end

section
/-! SUPPORT. What the operations on the groups of one window leave of the state: the records of the window after each, and the rest. -/

namespace Sys2Proof.Machine

theorem Window.freeze_area (x : Window) : x.freeze.area = x.area := by
  unfold Window.freeze
  split <;> rfl

theorem Window.unfreeze_area (x : Window) : x.unfreeze.area = x.area := by
  unfold Window.unfreeze
  split <;> rfl

theorem Window.freeze_groups (x : Window) : x.freeze.groups = x.groups := by
  unfold Window.freeze
  split <;> rfl

/-! ### Changes at one window -/

/-- But for window `w`'s record, and slots and used counts, the queues are as they were; held writes may have left the list. -/
structure AtWindow (w : WIdx) (s t : State) : Prop where
  others : ∀ v : WIdx, v ≠ w → (s.win v).sameQueue (t.win v)
  area : (t.win w).area = (s.win w).area
  softReset : t.softReset = s.softReset
  holds : (t.holds.map Held.key).Sublist (s.holds.map Held.key)

namespace AtWindow

variable {w : WIdx} {s t u : State}

theorem trans (h : AtWindow w s t) (k : AtWindow w t u) : AtWindow w s u := by
  refine ⟨fun v hv => ?_, k.area.trans h.area, k.softReset.trans h.softReset, k.holds.trans h.holds⟩
  obtain ⟨h1, h2, h3, h4, h5, h6⟩ := h.others v hv
  obtain ⟨k1, k2, k3, k4, k5, k6⟩ := k.others v hv
  exact ⟨k1.trans h1, k2.trans h2, k3.trans h3, k4.trans h4, k5.trans h5, k6.trans h6⟩

theorem of_same (h : SameQueues s t) : AtWindow w s t := ⟨fun v _ => h.win v, (h.win w).2.2.2.2.2, h.softReset, h.holds⟩

theorem refl (s : State) : AtWindow w s s := of_same (.refl s)

theorem modWin (s : State) {f : Window → Window} (hf : (f (s.win w)).area = (s.win w).area) : AtWindow w s (s.modWin w f) := by
  refine ⟨fun v hv => ?_, by rw [State.win_modWin_same]; exact hf, rfl, List.Sublist.refl _⟩
  rw [State.win_modWin_other _ _ hv]
  exact .refl _

/-- The freeing of slots marks the writes that wait for the area (R148). -/
theorem freeGroupSlots (s : State) (n : Byte) : AtWindow w s (s.freeGroupSlots w n) := by
  refine ⟨fun v _ => ?_, by rw [State.win_freeGroupSlots], by rw [same_closed.freeGroupSlots s w n], ?_⟩
  · rw [State.win_freeGroupSlots]
    exact .refl _
  · have hkey : (s.freeGroupSlots w n).holds.map Held.key = s.holds.map Held.key := by
      rw [State.freeGroupSlots_marks, List.map_map]
      refine List.map_congr_left fun h _ => ?_
      rw [Function.comp_apply]
      split <;> rfl
    rw [hkey]

theorem setOldest (s : State) (y : Group) : AtWindow w s (s.setOldest w y) := modWin s rfl

theorem setYoungest (s : State) (y : Group) : AtWindow w s (s.setYoungest w y) := modWin s rfl

theorem refusePending (s : State) (g : Group) : AtWindow w s (s.refusePending w g) := by
  unfold State.refusePending
  split
  · exact of_same ((SameQueues.answerPending s g _).trans (.bumpRefused _ w))
  · exact .refl s

theorem discardGroup (s : State) (g : Group) (c : Cause) : AtWindow w s (s.discardGroup w g c) :=
  (freeGroupSlots s g.number).trans ((refusePending _ g).trans ((of_same ((SameQueues.post _ w _).trans (.bumpDiscarded _ w))).trans
    ((modWin _ rfl).trans (of_same (.windowTrigger _ w)))))

theorem discards (l : List Group) (s : State) (c : Cause) : AtWindow w s (l.foldl (fun s g => s.discardGroup w g c) s) := by
  induction l generalizing s with
  | nil => exact .refl s
  | cons g l ih => exact (discardGroup s g c).trans (ih _)

theorem breakOpen (s : State) (c : Cause) (l : Option Line) : AtWindow w s (s.breakOpen w c l) := by
  unfold State.breakOpen
  split
  · split
    · exact (freeGroupSlots s _).trans ((setYoungest _ _).trans (of_same ((SameQueues.post _ w _).trans (.bumpBroken _ w))))
    · exact .refl s
  · exact .refl s

theorem sealOpen (s : State) (c : SealCause) (m : Option MarkerData) (pm : Option (Source × Tag)) :
    AtWindow w s (s.sealOpen w c m pm) := by
  unfold State.sealOpen
  split
  · split
    · exact (setYoungest s _).trans (of_same (.windowTrigger _ w))
    · exact .refl s
  · exact .refl s

theorem discardYoungestIf (s : State) (st : GState) (c : Cause) : AtWindow w s (s.discardYoungestIf w st c) := by
  unfold State.discardYoungestIf
  split
  · split
    · exact discardGroup s _ c
    · exact .refl s
  · exact .refl s

theorem publishOldest (s : State) (g : Group) : AtWindow w s (s.publishOldest w g) :=
  (of_same ((SameQueues.post s w _).trans ((SameQueues.bumpPublished _ w).trans (.answerPending _ g _)))).trans
    ((modWin _ rfl).trans (of_same (.windowTrigger _ w)))

theorem releaseSealed (s : State) (e : Option (BitVec 16)) : AtWindow w s (s.releaseSealed w e) := modWin s rfl

theorem freeAcked (s : State) (g : Group) (e : Entry) : AtWindow w s (s.freeAcked w g e) :=
  ⟨fun v hv => by rw [State.freeAcked, State.setOldest, State.win_modWin_other _ _ hv]; exact .refl _,
    by rw [State.freeAcked, State.setOldest, State.win_modWin_same]; rfl, rfl, List.Sublist.refl _⟩

theorem allocate (s : State) (x : Write) (g : Group) (k : Nat) : AtWindow x.window s (s.allocate x g k) := by
  unfold State.allocate
  dsimp only
  refine AtWindow.trans ?_ (of_same (.endWrite _ x .done))
  exact ⟨fun v hv => by rw [State.setYoungest, State.win_modWin_other _ _ hv]; exact .refl _,
    by rw [State.setYoungest, State.win_modWin_same]; rfl, rfl, List.Sublist.refl _⟩

theorem freezeWindow (s : State) (g : Group) (l : Line) : AtWindow w s (s.freezeWindow w g l) :=
  (modWin s (Window.freeze_area _)).trans ((of_same ((SameQueues.post _ w _).trans (.refuseHeld _ w))).trans (breakOpen _ _ _))

theorem frozenBehind (s : State) (g : Group) (l : Line) : AtWindow w s (s.frozenBehind w g l) :=
  (setOldest s _).trans (freezeWindow _ _ _)

theorem abandoned (s : State) (g : Group) : AtWindow w s (s.abandoned w g) :=
  (freeGroupSlots s g.number).trans ((of_same ((SameQueues.mapCredits _ _).trans ((SameQueues.answerPending _ g _).trans
    ((SameQueues.post _ w _).trans (.bumpDiscarded _ w))))).trans ((modWin _ rfl).trans (of_same (.windowTrigger _ w))))

theorem quiesced (s : State) (m : QuiesceMode) : AtWindow w s (s.quiesced w m) := (modWin s rfl).trans (of_same (.refuseHeld _ w))

theorem unmark (s : State) : AtWindow w s (s.unmark w) := modWin s rfl

end AtWindow

/-! ### The window's record after each -/

section
variable (s : State) (w : WIdx)

theorem State.win_setOldest (y : Group) : (s.setOldest w y).win w = { s.win w with groups := y :: (s.win w).groups.tail } := by
  rw [State.setOldest, State.win_modWin_same]

theorem State.win_setYoungest (y : Group) :
    (s.setYoungest w y).win w = { s.win w with groups := (s.win w).groups.dropLast ++ [y] } := by
  rw [State.setYoungest, State.win_modWin_same]

theorem State.win_publishOldest (g : Group) :
    (s.publishOldest w g).win w = { s.win w with
      groups := (s.win w).groups.tail
      stats := { (s.win w).stats with published := (s.win w).stats.published + 1 } } := by
  simp [State.publishOldest, State.bumpPublished]

theorem State.win_abandoned (g : Group) :
    (s.abandoned w g).win w = { s.win w with
      groups := (s.win w).groups.tail
      stats := { (s.win w).stats with discarded := (s.win w).stats.discarded + 1 } } := by
  simp [State.abandoned, State.bumpDiscarded, State.win_freeGroupSlots]

theorem State.win_releaseSealed (e : Option (BitVec 16)) :
    (s.releaseSealed w e).win w = { s.win w with groups := (s.win w).groups.map fun g => g.releasedAt e } := by
  rw [State.releaseSealed_eq, State.win_setGroups]

theorem State.win_breakOpen {g : Group} (hg : s.youngest w = some g) (ho : g.state = .opened) (c : Cause) (l : Option Line) :
    (s.breakOpen w c l).win w = { s.win w with
      groups := (s.win w).groups.dropLast ++ [g.brokenDown]
      stats := { (s.win w).stats with broken := (s.win w).stats.broken + 1 } } := by
  rw [State.breakOpen_some hg ho, State.bumpBroken, State.win_modWin_same, State.win_post, State.win_setYoungest,
    State.win_freeGroupSlots]

theorem State.win_freeAcked (g : Group) (e : Entry) : (s.freeAcked w g e).win w = { s.win w with
    groups := { g with entryCount := g.entryCount - 1, acked := g.acked + 1, outstanding := g.outstanding - 1 } ::
      (s.win w).groups.tail } := by
  rw [State.freeAcked, State.win_setOldest]
  rfl

theorem State.win_allocate (x : Write) (g : Group) (k : Nat) : (s.allocate x g k).win x.window = { s.win x.window with
    groups := (s.win x.window).groups.dropLast ++ [{ g with entryCount := g.entryCount + 1 }] } := by
  rw [State.allocate]
  dsimp only
  rw [State.win_endWrite, State.win_setYoungest]
  rfl

end

/-! ### Held writes refused (R153) -/

/-- A held write that is refused leaves the hold list. -/
theorem State.holds_refuseWrite_held (s : State) (h : Held) (c : Cause) :
    (s.refuseWrite h.toWrite c).holds = s.holds.filter fun y => y.slot != h.slot := by
  simp [State.refuseWrite, State.endWrite, State.bumpRefused, Held.toWrite, State.endHold, State.dropHold]

theorem State.holds_refusals (l : List Held) (c : Cause) (s : State) :
    (l.foldl (fun s h => s.refuseWrite h.toWrite c) s).holds = s.holds.filter fun y => !(l.map Held.slot).contains y.slot := by
  induction l generalizing s with
  | nil => simp
  | cons h l ih =>
    rw [List.foldl_cons, ih, State.holds_refuseWrite_held, List.filter_filter]
    refine List.filter_congr fun y _ => ?_
    simp [Bool.and_comm]
    rfl

/-- The writes held for other windows stay. -/
theorem State.holds_refuseHeld {s : State} (h : (s.holds.map Held.slot).Nodup) (w : WIdx) :
    (s.refuseHeld w).holds = s.holds.filter fun y => y.window != w := by
  rw [State.refuseHeld, State.holds_refusals]
  refine List.filter_congr fun y hy => ?_
  rw [Bool.not_eq_eq_eq_not, ← Bool.not_eq_eq_eq_not, bne, Bool.not_inj_iff, Bool.eq_iff_iff]
  simp only [List.contains_iff_mem, List.mem_map, List.mem_filter, beq_iff_eq]
  refine ⟨fun ⟨z, ⟨hz, hw⟩, hslot⟩ => ?_, fun hw => ⟨y, ⟨hy, hw⟩, rfl⟩⟩
  rw [← List.inj_on_of_nodup_map h hz hy hslot]
  exact hw

/-- No write held for the window is left. -/
theorem State.not_held_refuseHeld (s : State) (w : WIdx) : ∀ h ∈ (s.refuseHeld w).holds, h.window ≠ w := by
  intro h hh hw
  rw [State.refuseHeld, State.holds_refusals, List.mem_filter] at hh
  obtain ⟨hmem, hnot⟩ := hh
  have hin : h.slot ∈ (s.holds.filter fun y => y.window == w).map Held.slot :=
    List.mem_map_of_mem (List.mem_filter.2 ⟨hmem, by simpa using hw⟩)
  simp only [Bool.not_eq_true', ← Bool.not_eq_true, List.contains_iff_mem] at hnot
  exact hnot hin

end Sys2Proof.Machine
end

section
/-! SUPPORT. The window records and the hold list through each change of a queue: the table law is a law of the queues. -/

namespace Sys2Proof.Machine

section
variable {s t : State} {w : WIdx} {g y : Group}

/-- The law after a change at one window: the window's own record is lawful, and no write is held for it unless it is ONLINE. -/
theorem State.groupLaw.at (h : s.groupLaw) (hat : AtWindow w s t) (hlaw : (t.win w).law)
    (hheld : (s.win w).state = .online → (t.win w).state = .online ∨ ∀ h ∈ t.holds, h.window ≠ w) : t.groupLaw := by
  obtain ⟨hwin, hslots, honline⟩ := h
  have hkeys : ∀ h ∈ t.holds, ∃ y ∈ s.holds, y.key = h.key := fun h hh => by
    simpa using hat.holds.subset (List.mem_map_of_mem hh)
  refine ⟨fun v => ?_, ?_, fun h hh => ?_⟩
  · by_cases hv : v = w
    · rw [hv]
      exact hlaw
    · exact (hat.others v hv).law (hwin v)
  · have hfst : ∀ l : List Held, l.map Held.slot = (l.map Held.key).map Prod.fst := fun l => by rw [List.map_map]; rfl
    rw [hfst] at hslots ⊢
    exact hslots.sublist (hat.holds.map _)
  · obtain ⟨y, hy, hkey⟩ := hkeys h hh
    have hwindow : y.window = h.window := congrArg Prod.snd hkey
    have hon := honline y hy
    rw [hwindow] at hon
    by_cases hv : h.window = w
    · rw [hv] at hon ⊢
      exact (hheld hon).resolve_right fun hnone => hnone h hh hv
    · rw [(hat.others _ hv).1]
      exact hon

/-- The queue of a window changes, its state does not. -/
theorem State.groupLaw.requeue (h : s.groupLaw) (hat : AtWindow w s t) (hstate : (t.win w).state = (s.win w).state)
    (hfrom : (t.win w).frozenFrom = (s.win w).frozenFrom) (hmode : (t.win w).quiesceMode = (s.win w).quiesceMode)
    (hshape : shaped (t.win w).groups) (hmem : ∀ b ∈ (t.win w).groups, ∃ a ∈ (s.win w).groups, a.state.mayBecome b.state)
    (hhead : (s.win w).state = .frozen → (t.win w).groups.head?.map Group.state = some .faulted) : t.groupLaw :=
  h.at hat ((h.1 w).requeue hstate hfrom hmode hshape hmem hhead) fun hon => .inl (hstate.trans hon)

theorem State.groupLaw.shaped (h : s.groupLaw) (w : WIdx) : shaped (s.win w).groups := (h.1 w).1

theorem State.groupLaw.head_faulted (h : s.groupLaw) (hf : (s.win w).state = .frozen) :
    (s.win w).groups.head?.map Group.state = some .faulted := ((Window.law_frozen hf).1 (h.1 w)).2.2.2.2.1

/-- A window with an OPEN or DRAINING group, say, is none that stands FROZEN behind it. -/
theorem State.groupLaw.not_frozen (h : s.groupLaw) (hg : s.oldest w = some g) (hs : g.state ≠ .faulted) : (s.win w).state ≠ .frozen :=
  fun hf => by
    obtain ⟨y, hy, hfault⟩ := h.faulted_of_frozen hf
    rw [hg] at hy
    cases hy
    exact hs hfault

theorem State.groups_of_oldest (h : s.oldest w = some g) : (s.win w).groups = g :: (s.win w).groups.tail := by
  obtain ⟨rest, hrest⟩ := List.head?_eq_some_iff.1 h
  rw [hrest]
  rfl

theorem State.groups_of_youngest (h : s.youngest w = some g) : (s.win w).groups = (s.win w).groups.dropLast ++ [g] := by
  obtain ⟨init, hinit⟩ := List.getLast?_eq_some_iff.1 h
  rw [hinit, List.dropLast_concat]

theorem State.groupLaw_congr (h : s.groupLaw) (ht : SameQueues s t) : t.groupLaw := by
  refine h.at (w := 0) (.of_same ht) ((ht.win 0).law (h.1 0)) fun hon => .inl ?_
  rw [ht.state, hon]

/-! ### The young end of a queue -/

/-- The youngest record gives way to one that is SEALED, OPEN or BROKEN in its turn, in an ONLINE window. -/
theorem State.groupLaw.setLast (h : s.groupLaw) (hat : AtWindow w s t) (hg : s.youngest w = some g) (ho : g.state = .opened)
    (hx : (t.win w).state = (s.win w).state ∧ (t.win w).frozenFrom = (s.win w).frozenFrom ∧
      (t.win w).quiesceMode = (s.win w).quiesceMode)
    (hgroups : (t.win w).groups = (s.win w).groups.dropLast ++ [y]) (hrank : 2 ≤ y.state.rank) : t.groupLaw := by
  have hon := h.online_of_opened (State.mem_of_youngest hg) ho
  have hold := State.groups_of_youngest hg
  have hshape := h.shaped w
  rw [hold] at hshape
  obtain ⟨hstate, hfrom, hmode⟩ := hx
  refine h.requeue hat hstate hfrom hmode (by rw [hgroups]; exact hshape.setLast hrank) (fun b hb => ?_) fun hf => ?_
  · rw [hgroups] at hb
    rcases List.mem_append.1 hb with hb | hb
    · exact ⟨b, List.mem_of_mem_dropLast hb, .refl _⟩
    · obtain rfl := List.mem_singleton.1 hb
      refine ⟨g, State.mem_of_youngest hg, ?_⟩
      have hlast : ∀ b : GState, 2 ≤ b.rank → GState.opened.mayBecome b := fun b => by cases b <;> decide
      rw [ho]
      exact hlast _ hrank
  · rw [hon] at hf
    cases hf

theorem State.groupLaw.seals (h : s.groupLaw) (c : SealCause) (m : Option MarkerData) (pm : Option (Source × Tag))
    (hg : s.youngest w = some g) (ho : g.state = .opened) : (s.setYoungest w (g.sealedBy c m pm)).groupLaw :=
  h.setLast (.setYoungest s _) hg ho (by rw [State.win_setYoungest]; exact ⟨rfl, rfl, rfl⟩) (by rw [State.win_setYoungest]) le_rfl

theorem State.groupLaw.breaks (h : s.groupLaw) (c : Cause) (l : Option Line) (hg : s.youngest w = some g) (ho : g.state = .opened) :
    (s.breakOpen w c l).groupLaw :=
  h.setLast (.breakOpen s c l) hg ho (by rw [State.win_breakOpen s w hg ho]; exact ⟨rfl, rfl, rfl⟩)
    (by rw [State.win_breakOpen s w hg ho]) (show 2 ≤ GState.broken.rank by decide)

theorem State.groupLaw.allocates (h : s.groupLaw) {x : Write} (j : Nat) (hg : s.youngest x.window = some g) (ho : g.state = .opened) :
    (s.allocate x g j).groupLaw :=
  h.setLast (.allocate s x g j) hg ho (by rw [State.win_allocate]; exact ⟨rfl, rfl, rfl⟩) (by rw [State.win_allocate])
    (by rw [ho]; decide)

theorem State.groupLaw.opens (h : s.groupLaw) (src : Source) (hon : (s.win w).state = .online) (hno : s.noOpenGroup w)
    (hroom : (s.win w).groups.length < Config.groupRecords) : (s.openGroup w src).groupLaw := by
  have hwin : (s.openGroup w src).win w = (s.win w).opened (s.newGroup w src) := by
    rw [State.openGroup, State.win_modWin_same]
    rfl
  obtain ⟨hshape, hfrom, hmode, hfaulted⟩ := (Window.law_online hon).1 (h.1 w)
  refine h.at (.modWin s rfl) ?_ fun _ => .inl (by rw [hwin]; exact hon)
  have hlaw : ((s.win w).opened (s.newGroup w src)).law := by
    refine (Window.law_online (x := (s.win w).opened _) hon).2 ⟨hshape.opens hroom rfl hno, hfrom, hmode, fun b hb => ?_⟩
    rcases List.mem_append.1 hb with hb | hb
    · exact hfaulted b hb
    · obtain rfl := List.mem_singleton.1 hb
      exact fun hf => by cases hf
  rw [← hwin] at hlaw
  exact hlaw

/-! ### Discards and releases -/

theorem State.groupLaw.discards (h : s.groupLaw) (c : Cause) (hu : g.state.unreleased = true) : (s.discardGroup w g c).groupLaw := by
  have hwin := s.win_discardGroup w g c
  refine h.requeue (.discardGroup s g c) (by rw [hwin]; rfl) (by rw [hwin]; rfl) (by rw [hwin]; rfl) ?_ (fun b hb => ?_) fun hf => ?_
  · rw [hwin]
    exact (h.shaped w).sublist (List.diff_sublist _ _)
  · rw [hwin] at hb
    exact ⟨b, (List.diff_sublist _ _).subset hb, .refl _⟩
  · obtain ⟨y, hy, hfault⟩ := h.faulted_of_frozen hf
    have hne : y ≠ g := fun heq => by
      rw [heq] at hfault
      rw [hfault] at hu
      cases hu
    rw [hwin, Window.discarded, List.diff_cons, List.diff_nil, State.groups_of_oldest hy,
      List.erase_cons_tail (by simpa using hne), List.head?_cons, Option.map_some, hfault]

/-- A release, or a group that stays what it is. -/
theorem releasedAt_state (g : Group) (e : Option (BitVec 16)) :
    (g.releasedAt e).state = if g.state = .sealed then .released else g.state := by
  unfold Group.releasedAt
  split <;> rfl

theorem State.groupLaw.releases (h : s.groupLaw) (w : WIdx) (e : Option (BitVec 16)) : (s.releaseSealed w e).groupLaw := by
  have hwin := s.win_releaseSealed w e
  refine h.requeue (.releaseSealed s e) (by rw [hwin]) (by rw [hwin]) (by rw [hwin]) ?_ (fun b hb => ?_) fun hf => ?_
  · rw [hwin]
    refine (h.shaped w).map fun a b hab => ?_
    have hstates : ∀ a b : GState, a.mayPrecede b → GState.mayPrecede (if a = .sealed then .released else a)
        (if b = .sealed then .released else b) := fun a b => by cases a <;> cases b <;> decide
    rw [releasedAt_state, releasedAt_state]
    exact hstates _ _ hab
  · rw [hwin] at hb
    obtain ⟨a, ha, rfl⟩ := List.mem_map.1 hb
    refine ⟨a, ha, ?_⟩
    rw [releasedAt_state]
    split
    · next hs =>
      rw [hs]
      decide
    · exact .refl _
  · have hhead := h.head_faulted hf
    rw [hwin, List.head?_map]
    cases hg : (s.win w).groups.head? with
    | none => rw [hg] at hhead; cases hhead
    | some g =>
      rw [hg, Option.map_some] at hhead
      rw [Option.map_some, Option.map_some, releasedAt_state, Option.some.inj hhead]
      rfl

/-! ### The old end of a queue -/

/-- The oldest record gives way to one that may stand where it stood. -/
theorem State.groupLaw.setHead (h : s.groupLaw) (hat : AtWindow w s t) (hg : s.oldest w = some g)
    (hx : (t.win w).state = (s.win w).state ∧ (t.win w).frozenFrom = (s.win w).frozenFrom ∧
      (t.win w).quiesceMode = (s.win w).quiesceMode)
    (hgroups : (t.win w).groups = y :: (s.win w).groups.tail) (hmay : g.state.mayBecome y.state) (hrank : y.state.rank ≤ g.state.rank)
    (hsame : (s.win w).state = .frozen → y.state = g.state) : t.groupLaw := by
  have hold := State.groups_of_oldest hg
  obtain ⟨hstate, hfrom, hmode⟩ := hx
  refine h.requeue hat hstate hfrom hmode ?_ (fun b hb => ?_) fun hf => ?_
  · have hshape := h.shaped w
    rw [hold] at hshape
    rw [hgroups]
    exact hshape.setHead hrank
  · rw [hgroups] at hb
    rcases List.mem_cons.1 hb with rfl | hb
    · exact ⟨g, State.mem_of_oldest hg, hmay⟩
    · exact ⟨b, List.mem_of_mem_tail hb, .refl _⟩
  · have hhead := h.head_faulted hf
    rw [hold, List.head?_cons, Option.map_some] at hhead
    rw [hgroups, List.head?_cons, Option.map_some, hsame hf, hhead]

theorem State.groupLaw.drains (h : s.groupLaw) (hg : s.oldest w = some g) (hy : g.drainsTo y (s.win w)) :
    (s.setOldest w y).groupLaw := by
  have hwin := s.win_setOldest w y
  obtain ⟨-, -, hstate⟩ := hy
  have hbecomes : g.state.mayBecome y.state ∧ y.state.rank ≤ g.state.rank ∧ ((s.win w).state = .frozen → y.state = g.state) := by
    rcases hstate with hs | ⟨hg', hf, hs⟩ | ⟨⟨hg', hf⟩ | hg', hs, -⟩
    · rw [hs]
      exact ⟨.refl _, le_rfl, fun _ => rfl⟩
    · rw [hs, hg']
      exact ⟨by decide, by decide, fun h => absurd h hf⟩
    · rw [hs, hg']
      exact ⟨by decide, by decide, fun h => absurd h hf⟩
    · rw [hs, hg']
      exact ⟨by decide, by decide,
        fun hf => absurd hf (h.not_frozen hg (by rw [hg']; decide))⟩
  obtain ⟨hmay, hrank, hsame⟩ := hbecomes
  exact h.setHead (.setOldest s y) hg (by rw [hwin]; exact ⟨rfl, rfl, rfl⟩) (by rw [hwin]) hmay hrank hsame

/-- The oldest record leaves a queue that is not FROZEN behind it. -/
theorem State.groupLaw.publishes (h : s.groupLaw) (hg : s.oldest w = some g) (hs : g.state ≠ .faulted) :
    (s.publishOldest w g).groupLaw := by
  have hwin := s.win_publishOldest w g
  refine h.requeue (.publishOldest s g) (by rw [hwin]) (by rw [hwin]) (by rw [hwin]) ?_ (fun b hb => ?_)
    fun hf => absurd hf (h.not_frozen hg hs)
  · rw [hwin]
    exact (h.shaped w).sublist (List.tail_sublist _)
  · rw [hwin] at hb
    exact ⟨b, List.mem_of_mem_tail hb, .refl _⟩

/-- The oldest record's counts change (R109). -/
theorem State.groupLaw.acks (h : s.groupLaw) (e : Entry) (hg : s.oldest w = some g) : (s.freeAcked w g e).groupLaw :=
  h.setHead (y := { g with entryCount := g.entryCount - 1, acked := g.acked + 1, outstanding := g.outstanding - 1 }) (.freeAcked s g e) hg (by rw [State.win_freeAcked]; exact ⟨rfl, rfl, rfl⟩) (by rw [State.win_freeAcked]) (.refl _) le_rfl
    fun _ => rfl

theorem State.groupLaw.unmarks (h : s.groupLaw) (w : WIdx) : (s.unmark w).groupLaw := by
  have hwin : (s.unmark w).win w = { s.win w with groups := (s.win w).groups.map Group.unmarked } := by
    rw [State.unmark, State.win_modWin_same]
  refine h.requeue (.unmark s) (by rw [hwin]) (by rw [hwin]) (by rw [hwin]) ?_ (fun b hb => ?_) fun hf => ?_
  · rw [hwin]
    exact (h.shaped w).map fun _ _ hab => hab
  · rw [hwin] at hb
    obtain ⟨a, ha, rfl⟩ := List.mem_map.1 hb
    exact ⟨a, ha, .refl _⟩
  · have hhead := h.head_faulted hf
    rw [hwin, List.head?_map, Option.map_map]
    exact hhead

end

end Sys2Proof.Machine
end

section
/-! SUPPORT. Freeze, return, abandonment and quiesce: the window records and the hold list. -/

namespace Sys2Proof.Machine

/-! ### The break of whatever is OPEN -/

/-- A group's record after a break of its window (R80): only an OPEN one changes. -/
def Group.brokenIfOpen (g : Group) : Group := if g.state = .opened then g.brokenDown else g

theorem Group.brokenIfOpen_state (g : Group) : g.brokenIfOpen.state = if g.state = .opened then .broken else g.state := by
  unfold Group.brokenIfOpen
  split <;> rfl

/-- Only the youngest record of a queue is OPEN or BROKEN (R61). -/
theorem shaped.dropLast_rank {l : List Group} (h : shaped l) : ∀ g ∈ l.dropLast, g.state.rank < 3 := by
  intro g hg
  rcases List.eq_nil_or_concat l with rfl | ⟨init, y, rfl⟩
  · cases hg
  · rw [List.concat_eq_append] at h hg
    rw [List.dropLast_concat] at hg
    exact ((List.pairwise_append.1 h.2).2.2 g hg y (by simp)).2.1

theorem shaped.not_open_of_dropLast {l : List Group} (h : shaped l) : ∀ g ∈ l.dropLast, g.state ≠ .opened := fun g hg ho =>
  absurd (h.dropLast_rank g hg) (by rw [ho]; decide)

section
variable {s : State} {w : WIdx}

/-- A break in a queue of R61, whatever its youngest record is. -/
theorem State.win_breakOpen_shaped (h : shaped (s.win w).groups) (c : Cause) (l : Option Line) :
    (s.breakOpen w c l).win w = { s.win w with
      groups := (s.win w).groups.map Group.brokenIfOpen
      stats := { (s.win w).stats with
        broken := (s.win w).stats.broken + BitVec.ofNat 32 ((s.win w).groups.countP fun g => g.state == .opened) } } := by
  have hinit := h.not_open_of_dropLast
  have hkept : ∀ m : List Group, (∀ g ∈ m, g.state ≠ .opened) →
      m.map Group.brokenIfOpen = m ∧ (m.countP fun g => g.state == .opened) = 0 := fun m hm =>
    ⟨(List.map_congr_left fun g hg => if_neg (hm g hg)).trans (List.map_id _),
      List.countP_eq_zero.2 fun g hg => by simpa using hm g hg⟩
  by_cases hopen : ∃ g ∈ s.youngest w, g.state = .opened
  · obtain ⟨g, hg, ho⟩ := hopen
    obtain ⟨hmap, hcount⟩ := hkept _ hinit
    rw [State.win_breakOpen s w hg ho, State.groups_of_youngest hg, List.dropLast_concat, List.map_append, hmap, List.countP_append,
      hcount]
    simp [Group.brokenIfOpen, ho]
  · have hnone : ∀ g ∈ s.youngest w, g.state ≠ .opened := fun g hg ho => hopen ⟨g, hg, ho⟩
    obtain ⟨hmap, hcount⟩ := hkept (s.win w).groups fun g hg => by
      cases hy : s.youngest w with
      | none =>
        rw [State.youngest, List.getLast?_eq_none_iff] at hy
        rw [hy] at hg
        cases hg
      | some y =>
        rw [State.groups_of_youngest hy] at hg
        rcases List.mem_append.1 hg with hg | hg
        · exact hinit g hg
        · rw [List.mem_singleton.1 hg]
          exact hnone y hy
    rw [State.breakOpen_none hnone, hmap, hcount]
    simp

end

theorem shaped.broken {l : List Group} (h : shaped l) : shaped (l.map Group.brokenIfOpen) := by
  refine h.map fun a b hab => ?_
  have hstates : ∀ a b : GState, a.mayPrecede b → GState.mayPrecede (if a = .opened then .broken else a)
      (if b = .opened then .broken else b) := fun a b => by cases a <;> cases b <;> decide
  rw [Group.brokenIfOpen_state, Group.brokenIfOpen_state]
  exact hstates _ _ hab

theorem GState.mayBecome_brokenIfOpen (g : Group) : g.state.mayBecome g.brokenIfOpen.state := by
  rw [Group.brokenIfOpen_state]
  cases g.state <;> decide

theorem Group.brokenIfOpen_not_open (g : Group) : g.brokenIfOpen.state ≠ .opened := by
  rw [Group.brokenIfOpen_state]
  cases g.state <;> decide

/-! ### The freeze (R35, R114, R115) -/

section
variable {s : State} {w : WIdx} {g : Group}

theorem Window.freeze_groups_eq (x : Window) (l : List Group) :
    ({ x with groups := l } : Window).freeze = { x.freeze with groups := l } := by
  cases x with
  | mk state => cases state <;> rfl

/-- The window as the freeze leaves it, before what is OPEN breaks. -/
def State.freezing (s : State) (w : WIdx) (g : Group) (line : Line) : State :=
  ((((s.setOldest w (g.failed line)).modWin w Window.freeze).post w (evGroupFaulted w (g.failed line) line)).refuseHeld w)

theorem State.frozenBehind_eq (s : State) (w : WIdx) (g : Group) (line : Line) :
    s.frozenBehind w g line = (s.freezing w g line).breakOpen w .freeze none := rfl

theorem State.freezing_window (s : State) (w : WIdx) (g : Group) (line : Line) :
    ({ (s.win w).freeze with groups := g.failed line :: (s.win w).groups.tail } : Window).sameQueue ((s.freezing w g line).win w) := by
  have hsame := (SameQueues.refuseHeld ((((s.setOldest w (g.failed line)).modWin w Window.freeze).post w
    (evGroupFaulted w (g.failed line) line))) w).win w
  rw [State.win_post, State.win_modWin_same, State.win_setOldest] at hsame
  have hfreeze : ({ s.win w with groups := g.failed line :: (s.win w).groups.tail } : Window).freeze =
      { (s.win w).freeze with groups := g.failed line :: (s.win w).groups.tail } := Window.freeze_groups_eq _ _
  rw [hfreeze] at hsame
  exact hsame

theorem State.groupLaw.live_of_mem (h : s.groupLaw) (hg : g ∈ (s.win w).groups) (hs : g.state ≠ .faulted) (ho : s.oldest w = some g) :
    (s.win w).state = .online ∨ (s.win w).state = .quiescing := by
  have hnot := h.not_frozen ho hs
  obtain ⟨-, hidle, -⟩ := h.1 w
  cases hst : (s.win w).state with
  | online => exact .inl rfl
  | quiescing => exact .inr rfl
  | frozen => exact absurd hst hnot
  | unused => rw [hidle (by rw [hst]; rfl)] at hg; cases hg
  | offline => rw [hidle (by rw [hst]; rfl)] at hg; cases hg

theorem State.groupLaw.shaped_failed (h : s.groupLaw) (hg : s.oldest w = some g) (line : Line) : Machine.shaped (g.failed line :: (s.win w).groups.tail) := by
  have hshape := h.shaped w
  rw [State.groups_of_oldest hg] at hshape
  exact hshape.setHead (Nat.zero_le _)

/-- The record of a window that has frozen (R35). -/
theorem State.win_frozenBehind (h : s.groupLaw) (hg : s.oldest w = some g) (hd : g.state = .draining ∨ g.state = .marking)
    (line : Line) :
    ((s.frozenBehind w g line).win w).state = .frozen ∧
      ((s.frozenBehind w g line).win w).frozenFrom =
        (if (s.win w).state = .online then some .online else some .quiescing) ∧
      ((s.frozenBehind w g line).win w).quiesceMode = none ∧
      ((s.frozenBehind w g line).win w).groups = g.failed line :: (s.win w).groups.tail.map Group.brokenIfOpen := by
  obtain ⟨h1, h2, h3, h4, -, -⟩ := s.freezing_window w g line
  have hshape : Machine.shaped ((s.freezing w g line).win w).groups := by
    rw [h4]
    exact h.shaped_failed hg line
  have hfirst : (g.failed line).brokenIfOpen = g.failed line := if_neg (by simp [Group.failed])
  rw [State.frozenBehind_eq, State.win_breakOpen_shaped hshape]
  dsimp only
  rw [h1, h2, h3, h4, List.map_cons, hfirst]
  rcases h.live_of_mem (State.mem_of_oldest hg) (by rcases hd with hd | hd <;> rw [hd] <;> decide) hg with hs | hs <;>
    simp [Window.freeze, hs]

theorem State.groupLaw.freezes (h : s.groupLaw) (hg : s.oldest w = some g) (hd : g.state = .draining ∨ g.state = .marking)
    (line : Line) : (s.frozenBehind w g line).groupLaw := by
  obtain ⟨hstate, hfrom, hmode, hgroups⟩ := State.win_frozenBehind h hg hd line
  have hshape := (h.shaped_failed hg line).broken
  rw [List.map_cons, show (g.failed line).brokenIfOpen = g.failed line from if_neg (by simp [Group.failed])] at hshape
  have hfailed : ∀ y ∈ (s.win w).groups.tail.map Group.brokenIfOpen, ∃ a ∈ (s.win w).groups, a.brokenIfOpen = y := fun y hy => by
    obtain ⟨a, ha, rfl⟩ := List.mem_map.1 hy
    exact ⟨a, List.mem_of_mem_tail ha, rfl⟩
  refine h.at (.frozenBehind s g line) ((Window.law_frozen hstate).2
    ⟨by rw [hgroups]; exact hshape, by rw [hfrom]; split <;> rfl, hmode, fun hq y hy => ?_, by rw [hgroups]; rfl, fun y hy => ?_⟩)
    fun _ => .inr ?_
  · have hquiescing : (s.win w).state = .quiescing := by
      refine (h.live_of_mem (State.mem_of_oldest hg) (by rcases hd with hd | hd <;> rw [hd] <;> decide) hg).resolve_left fun hon => ?_
      rw [hfrom, if_pos hon] at hq
      cases hq
    rw [hgroups] at hy
    rcases List.mem_cons.1 hy with rfl | hy
    · rfl
    · obtain ⟨a, ha, rfl⟩ := hfailed y hy
      exact (GState.mayBecome_brokenIfOpen a).1 (((Window.law_quiescing hquiescing).1 (h.1 w)).2.2.2 a ha).1
  · rw [hgroups] at hy
    rcases List.mem_cons.1 hy with rfl | hy
    · simp [Group.failed]
    · obtain ⟨a, -, rfl⟩ := hfailed y hy
      exact a.brokenIfOpen_not_open
  · intro y hy
    have hkeys := (AtWindow.breakOpen (w := w) (s.freezing w g line) .freeze none).holds
    obtain ⟨z, hz, hkey⟩ : ∃ z ∈ (s.freezing w g line).holds, z.key = y.key := by
      simpa using hkeys.subset (List.mem_map_of_mem hy)
    rw [← show z.window = y.window from congrArg Prod.snd hkey]
    exact State.not_held_refuseHeld _ w z hz

/-! ### The return from FROZEN (R37, R119, R121) -/

theorem State.unfreeze_area_at (s : State) (w : WIdx) : AtWindow w s (s.modWin w Window.unfreeze) := .modWin s (Window.unfreeze_area _)

/-- A FROZEN window's record, its window back in frozen-from. -/
theorem State.groupLaw.unfrozen {t : State} (h : s.groupLaw) (hfrozen : (s.win w).state = .frozen)
    (hat : AtWindow w (s.modWin w Window.unfreeze) t)
    (hx : (t.win w).state = (s.win w).unfreeze.state ∧ (t.win w).frozenFrom = (s.win w).unfreeze.frozenFrom ∧
      (t.win w).quiesceMode = (s.win w).unfreeze.quiesceMode) (hshape : Machine.shaped (t.win w).groups)
    (hmem : ∀ b ∈ (t.win w).groups, b.state ≠ .faulted ∧ ∃ a ∈ (s.win w).groups, a.state.mayBecome b.state) : t.groupLaw := by
  obtain ⟨hstate, hfrom, hmode⟩ := hx
  refine h.at ((s.unfreeze_area_at w).trans hat) ((h.1 w).unfrozen hfrozen hstate hfrom hmode hshape hmem) fun hon => ?_
  rw [hon] at hfrozen
  cases hfrozen

/-- Behind the oldest record no group is FAULTED. -/
theorem State.groupLaw.tail_not_faulted (h : s.groupLaw) (w : WIdx) : ∀ y ∈ (s.win w).groups.tail, y.state ≠ .faulted := by
  intro y hy hf
  have hshape := h.shaped w
  cases hgroups : (s.win w).groups with
  | nil => rw [hgroups] at hy; cases hy
  | cons a l =>
    rw [hgroups] at hy hshape
    have := hshape.not_drained hy
    rw [hf] at this
    exact absurd this (by decide)

theorem State.groupLaw.retries (h : s.groupLaw) (hfrozen : (s.win w).state = .frozen) (hg : s.oldest w = some g) :
    ((s.modWin w Window.unfreeze).setOldest w
      { g with state := if g.entryCount = 0 then .marking else .draining, failedLine := none }).groupLaw := by
  obtain ⟨y, hy, hfaulted⟩ := h.faulted_of_frozen hfrozen
  obtain rfl : g = y := by rw [hg] at hy; exact Option.some.inj hy
  have hshape := h.shaped w
  rw [State.groups_of_oldest hg] at hshape
  have hnext : ∀ st : GState, st = (if g.entryCount = 0 then .marking else .draining) →
      st ≠ .faulted ∧ GState.faulted.mayBecome st ∧ st.rank ≤ 0 := by
    intro st hst
    split at hst <;> subst hst <;> decide
  obtain ⟨hnot, hmay, hrank⟩ := hnext _ rfl
  refine h.unfrozen hfrozen (.setOldest _ _) ?_ ?_ fun b hb => ?_
  · rw [State.win_setOldest, State.win_modWin_same]
    exact ⟨rfl, rfl, rfl⟩
  · rw [State.win_setOldest, State.win_modWin_same, Window.unfreeze_groups]
    exact hshape.setHead (by rw [hfaulted]; exact hrank)
  · rw [State.win_setOldest, State.win_modWin_same, Window.unfreeze_groups] at hb
    rcases List.mem_cons.1 hb with rfl | hb
    · exact ⟨hnot, g, State.mem_of_oldest hg, by rw [hfaulted]; exact hmay⟩
    · exact ⟨h.tail_not_faulted w b hb, b, List.mem_of_mem_tail hb, .refl _⟩

theorem State.groupLaw.abandons (h : s.groupLaw) (hfrozen : (s.win w).state = .frozen) (g : Group) :
    ((s.modWin w Window.unfreeze).abandoned w g).groupLaw := by
  refine h.unfrozen hfrozen (.abandoned _ _) ?_ ?_ fun b hb => ?_
  · rw [State.win_abandoned, State.win_modWin_same]
    exact ⟨rfl, rfl, rfl⟩
  · rw [State.win_abandoned, State.win_modWin_same, Window.unfreeze_groups]
    exact (h.shaped w).sublist (List.tail_sublist _)
  · rw [State.win_abandoned, State.win_modWin_same, Window.unfreeze_groups] at hb
    exact ⟨h.tail_not_faulted w b hb, b, List.mem_of_mem_tail hb, .refl _⟩

/-! ### Quiesce (R30 to R33) -/

theorem State.quiesced_window (s : State) (w : WIdx) (m : QuiesceMode) :
    ({ s.win w with state := .quiescing, quiesceMode := some m } : Window).sameQueue ((s.quiesced w m).win w) := by
  have hsame := (SameQueues.refuseHeld (s.modWin w fun x => { x with state := .quiescing, quiesceMode := some m }) w).win w
  rw [State.win_modWin_same] at hsame
  exact hsame

/-- A quiesce of an ONLINE window, given what has become of its queue. -/
theorem State.groupLaw.quiesces {t : State} (h : s.groupLaw) (hon : (s.win w).state = .online) {m : QuiesceMode}
    (hat : AtWindow w (s.quiesced w m) t)
    (hx : (t.win w).state = ((s.quiesced w m).win w).state ∧ (t.win w).frozenFrom = ((s.quiesced w m).win w).frozenFrom ∧
      (t.win w).quiesceMode = ((s.quiesced w m).win w).quiesceMode) (hshape : Machine.shaped (t.win w).groups)
    (hmem : ∀ b ∈ (t.win w).groups, b.state.releasedOrLater = true ∧ ∃ a ∈ (s.win w).groups, a.state.mayBecome b.state) :
    t.groupLaw := by
  obtain ⟨h1, h2, h3, -⟩ := s.quiesced_window w m
  obtain ⟨hstate, hfrom, hmode⟩ := hx
  rw [h1] at hstate
  rw [h2] at hfrom
  rw [h3] at hmode
  obtain ⟨-, hnone, -, hfaulted⟩ := (Window.law_online hon).1 (h.1 w)
  refine h.at ((AtWindow.quiesced s m).trans hat) ((Window.law_quiescing hstate).2
    ⟨hshape, hfrom.trans hnone, by rw [hmode]; rfl, fun b hb => ?_⟩) fun _ => .inr fun y hy => ?_
  · obtain ⟨hreleased, a, ha, hmay⟩ := hmem b hb
    exact ⟨hreleased, fun hf => hfaulted a ha (hmay.2.2 hf)⟩
  · obtain ⟨z, hz, hkey⟩ : ∃ z ∈ (s.quiesced w m).holds, z.key = y.key := by
      simpa using hat.holds.subset (List.mem_map_of_mem hy)
    rw [← show z.window = y.window from congrArg Prod.snd hkey]
    exact State.not_held_refuseHeld _ w z hz

theorem State.groupLaw.quiescesDrop (h : s.groupLaw) (hon : (s.win w).state = .online) :
    ((s.quiesced w .drop).discardUnreleased w .quiesce).groupLaw := by
  obtain ⟨-, -, -, h4, -⟩ := s.quiesced_window w .drop
  have hwin : ((s.quiesced w .drop).discardUnreleased w .quiesce).win w = _ := State.discards_win w .quiesce _ (s.quiesced w .drop)
  have hleft : (((s.quiesced w .drop).discardUnreleased w .quiesce).win w).groups =
      (s.win w).groups.filter fun g => g.state.releasedOrLater := by
    rw [hwin, Window.discarded, diff_filter, h4]
    simp [GState.unreleased]
  refine h.quiesces hon (.discards _ _ _) (by rw [hwin]; exact ⟨rfl, rfl, rfl⟩) ?_ fun b hb => ?_
  · rw [hleft]
    exact (h.shaped w).sublist List.filter_sublist
  · rw [hleft] at hb
    obtain ⟨hb, hreleased⟩ := List.mem_filter.1 hb
    exact ⟨hreleased, b, hb, .refl _⟩

end

end Sys2Proof.Machine
end

section
/-! O6. The end of a quiesce with FINISH, the law of a soft reset, and the table law as a law of the queues. -/

namespace Sys2Proof.Machine

/-! ### Changes of the youngest record, as changes of every record (R61) -/

section
variable {l : List Group}

/-- A change of what is OPEN alone is a change of the youngest record. -/
theorem shaped.map_last (h : shaped l) {f : Group → Group} (hf : ∀ g : Group, g.state ≠ .opened → f g = g) {g : Group}
    (hg : l.getLast? = some g) : l.map f = l.dropLast ++ [f g] := by
  obtain ⟨init, rfl⟩ := List.getLast?_eq_some_iff.1 hg
  have hinit := h.not_open_of_dropLast
  rw [List.dropLast_concat] at hinit ⊢
  rw [List.map_append, List.map_singleton, List.map_congr_left fun y hy => hf y (hinit y hy), List.map_id']

/-- Where the youngest record is not OPEN, none is. -/
theorem shaped.not_open (h : shaped l) (hlast : ∀ g ∈ l.getLast?, g.state ≠ .opened) : ∀ g ∈ l, g.state ≠ .opened := by
  intro g hg
  rcases List.eq_nil_or_concat l with rfl | ⟨init, y, rfl⟩
  · cases hg
  · rw [List.concat_eq_append] at h hg hlast
    have hinit := h.not_open_of_dropLast
    rw [List.dropLast_concat] at hinit
    rcases List.mem_append.1 hg with hg | hg
    · exact hinit g hg
    · rw [List.mem_singleton.1 hg]
      exact hlast y (by simp)

/-- The youngest record, BROKEN, is the only one. -/
theorem shaped.erase_broken (h : shaped l) {g : Group} (hg : l.getLast? = some g) (hb : g.state = .broken) :
    l.erase g = l.filter fun y => y.state != .broken := by
  obtain ⟨init, rfl⟩ := List.getLast?_eq_some_iff.1 hg
  have hinit := h.dropLast_rank
  rw [List.dropLast_concat] at hinit
  have hnot : ∀ y ∈ init, y.state ≠ .broken := fun y hy hs => absurd (hinit y hy) (by rw [hs]; decide)
  rw [List.erase_append_right _ fun hmem => hnot g hmem hb, List.erase_cons_head, List.append_nil, List.filter_append,
    List.filter_eq_self.2 fun y hy => by simpa using hnot y hy]
  simp [hb]

theorem shaped.filter_broken (h : shaped l) (hlast : ∀ g ∈ l.getLast?, g.state ≠ .broken) :
    l = l.filter fun y => y.state != .broken := by
  refine (List.filter_eq_self.2 fun g hg => ?_).symm
  rcases List.eq_nil_or_concat l with rfl | ⟨init, y, rfl⟩
  · cases hg
  · rw [List.concat_eq_append] at h hg hlast
    have hinit := h.dropLast_rank
    rw [List.dropLast_concat] at hinit
    rcases List.mem_append.1 hg with hg | hg
    · have := hinit g hg
      cases hs : g.state <;> simp_all [GState.rank]
    · rw [List.mem_singleton.1 hg]
      simpa using hlast y (by simp)

end

/-- A group's record after a seal of its window (R75): only an OPEN one changes. -/
def Group.sealedIfOpen (g : Group) (c : SealCause) (m : Option MarkerData) (pm : Option (Source × Tag)) : Group :=
  if g.state = .opened then g.sealedBy c m pm else g

theorem Group.sealedIfOpen_state (g : Group) (c : SealCause) (m : Option MarkerData) (pm : Option (Source × Tag)) :
    (g.sealedIfOpen c m pm).state = if g.state = .opened then .sealed else g.state := by
  unfold Group.sealedIfOpen
  split <;> rfl

section
variable {s : State} {w : WIdx} {g : Group}

theorem State.win_sealOpen_shaped (h : shaped (s.win w).groups) (c : SealCause) (m : Option MarkerData) (pm : Option (Source × Tag)) :
    (s.sealOpen w c m pm).win w = { s.win w with groups := (s.win w).groups.map fun g => g.sealedIfOpen c m pm } := by
  have hkept : ∀ g : Group, g.state ≠ .opened → g.sealedIfOpen c m pm = g := fun g hg => if_neg hg
  by_cases hopen : ∃ g ∈ s.youngest w, g.state = .opened
  · obtain ⟨g, hg, ho⟩ := hopen
    rw [State.sealOpen, hg]
    dsimp only
    rw [if_pos ho, State.win_windowTrigger, State.win_setYoungest, h.map_last hkept hg, Group.sealedIfOpen, if_pos ho]
  · have hnone : ∀ g ∈ s.youngest w, g.state ≠ .opened := fun g hg ho => hopen ⟨g, hg, ho⟩
    have hmap : (s.win w).groups.map (fun g => g.sealedIfOpen c m pm) = (s.win w).groups :=
      (List.map_congr_left fun g hg => hkept g (h.not_open hnone g hg)).trans (List.map_id _)
    have hstays : s.sealOpen w c m pm = s := by
      unfold State.sealOpen
      split
      · next g hg => exact if_neg (hnone g hg)
      · rfl
    rw [hstays, hmap]

theorem State.win_discardBroken (h : shaped (s.win w).groups) (c : Cause) :
    ((s.discardYoungestIf w .broken c).win w).state = (s.win w).state ∧
      ((s.discardYoungestIf w .broken c).win w).frozenFrom = (s.win w).frozenFrom ∧
      ((s.discardYoungestIf w .broken c).win w).quiesceMode = (s.win w).quiesceMode ∧
      ((s.discardYoungestIf w .broken c).win w).groups = (s.win w).groups.filter fun y => y.state != .broken := by
  unfold State.discardYoungestIf
  split
  · next g hg =>
    split
    · next hb =>
      rw [State.win_discardGroup, ← h.erase_broken hg hb]
      exact ⟨rfl, rfl, rfl, by rw [Window.discarded, List.diff_cons, List.diff_nil]⟩
    · next hb =>
      exact ⟨rfl, rfl, rfl, h.filter_broken fun y hy => by rw [Option.mem_unique hy hg]; exact hb⟩
  · next hnone =>
    rw [State.youngest, List.getLast?_eq_none_iff] at hnone
    rw [hnone]
    exact ⟨rfl, rfl, rfl, rfl⟩

/-! ### SET_OFFLINE with FINISH (R31) -/

/-- The record that a quiesce with FINISH leaves of a group that is not BROKEN (R31). -/
def Group.finished (g : Group) : Group := (g.sealedIfOpen .manual none none).releasedAt none

theorem Group.finished_state (g : Group) :
    g.finished.state = if g.state = .opened ∨ g.state = .sealed then .released else g.state := by
  rw [Group.finished, releasedAt_state, Group.sealedIfOpen_state]
  cases g.state <;> rfl

/-- Window `w` quiesces with FINISH, but for what the drain engine does then (R31). -/
def State.finishing (s : State) (w : WIdx) : State :=
  (((s.quiesced w .finish).sealOpen w .manual none none).discardYoungestIf w .broken .quiesce).releaseSealed w none

theorem shaped.sealed {l : List Group} (h : shaped l) (c : SealCause) (m : Option MarkerData) (pm : Option (Source × Tag)) :
    shaped (l.map fun g => g.sealedIfOpen c m pm) := by
  by_cases hopen : ∃ g ∈ l.getLast?, g.state = .opened
  · obtain ⟨g, hg, ho⟩ := hopen
    rw [h.map_last (f := fun g => g.sealedIfOpen c m pm) (fun g hg => if_neg hg) hg]
    obtain ⟨init, rfl⟩ := List.getLast?_eq_some_iff.1 hg
    rw [List.dropLast_concat]
    exact h.setLast (by rw [Group.sealedIfOpen_state, if_pos ho]; decide)
  · have hmap : l.map (fun g => g.sealedIfOpen c m pm) = l :=
      (List.map_congr_left fun g hg => if_neg (h.not_open (fun g hg ho => hopen ⟨g, hg, ho⟩) g hg)).trans (List.map_id _)
    rw [hmap]
    exact h

theorem shaped.released {l : List Group} (h : shaped l) (e : Option (BitVec 16)) : shaped (l.map fun g => g.releasedAt e) := by
  refine h.map fun a b hab => ?_
  have hstates : ∀ a b : GState, a.mayPrecede b → GState.mayPrecede (if a = .sealed then .released else a)
      (if b = .sealed then .released else b) := fun a b => by cases a <;> cases b <;> decide
  rw [releasedAt_state, releasedAt_state]
  exact hstates _ _ hab

/-- The queue that a quiesce with FINISH leaves: the BROKEN group gone, what was unreleased released (R31). -/
theorem State.win_finishing (h : shaped (s.win w).groups) :
    ((s.finishing w).win w).state = .quiescing ∧ ((s.finishing w).win w).frozenFrom = (s.win w).frozenFrom ∧
      ((s.finishing w).win w).quiesceMode = some .finish ∧
      ((s.finishing w).win w).groups = ((s.win w).groups.filter fun y => y.state != .broken).map Group.finished ∧
      shaped ((s.finishing w).win w).groups := by
  obtain ⟨q1, q2, q3, q4, -⟩ := s.quiesced_window w .finish
  have hq : shaped ((s.quiesced w .finish).win w).groups := by
    rw [q4]
    exact h
  have hseal := State.win_sealOpen_shaped hq .manual none none
  have hs : shaped (((s.quiesced w .finish).sealOpen w .manual none none).win w).groups := by
    rw [hseal]
    exact hq.sealed _ _ _
  obtain ⟨d1, d2, d3, d4⟩ := State.win_discardBroken hs .quiesce
  have hfilter : ((s.win w).groups.map fun g => g.sealedIfOpen .manual none none).filter (fun y => y.state != .broken) =
      ((s.win w).groups.filter fun y => y.state != .broken).map fun g => g.sealedIfOpen .manual none none := by
    rw [List.filter_map]
    congr 1
    refine List.filter_congr fun g _ => ?_
    rw [Function.comp_apply, Group.sealedIfOpen_state]
    cases g.state <;> rfl
  rw [State.finishing, State.win_releaseSealed]
  dsimp only
  rw [d1, d2, d3, d4, hseal]
  dsimp only
  rw [q1, q2, q3, q4, hfilter, List.map_map]
  refine ⟨rfl, rfl, rfl, rfl, ?_⟩
  rw [← List.map_map, ← hfilter]
  exact ((h.sealed _ _ _).sublist List.filter_sublist).released none

theorem AtWindow.finishing (s : State) : AtWindow w (s.quiesced w .finish) (s.finishing w) :=
  (AtWindow.sealOpen _ _ _ _).trans ((AtWindow.discardYoungestIf _ _ _).trans (.releaseSealed _ _))

theorem State.groupLaw.quiescesFinish (h : s.groupLaw) (hon : (s.win w).state = .online) : (s.finishing w).groupLaw := by
  obtain ⟨h1, h2, h3, h4, h5⟩ := State.win_finishing (h.shaped w)
  obtain ⟨q1, q2, q3, -⟩ := s.quiesced_window w .finish
  obtain ⟨-, -, -, hfaulted⟩ := (Window.law_online hon).1 (h.1 w)
  refine h.quiesces hon (.finishing s) ⟨h1.trans q1.symm, h2.trans q2.symm, h3.trans q3.symm⟩ h5 fun b hb => ?_
  rw [h4] at hb
  obtain ⟨a, ha, rfl⟩ := List.mem_map.1 hb
  obtain ⟨ha, hbroken⟩ := List.mem_filter.1 ha
  have hstates : ∀ a : GState, a ≠ .broken →
      GState.releasedOrLater (if a = .opened ∨ a = .sealed then .released else a) = true ∧
        a.mayBecome (if a = .opened ∨ a = .sealed then .released else a) := fun a => by cases a <;> decide
  obtain ⟨hreleased, hmay⟩ := hstates a.state (by simpa using hbroken)
  rw [Group.finished_state]
  exact ⟨hreleased, a, ha, hmay⟩

/-! ### The end of a quiesce, its mode, the hold list -/

theorem State.groupLaw.ends (h : s.groupLaw) (hq : (s.win w).state = .quiescing) (hnone : (s.win w).groups = []) :
    (s.modWin w fun x => { x with state := .offline, quiesceMode := none }).groupLaw := by
  obtain ⟨-, hfrom, -⟩ := (Window.law_quiescing hq).1 (h.1 w)
  refine h.at (.modWin s rfl) ?_ fun hon => ?_
  · rw [State.win_modWin_same]
    exact (Window.law_idle rfl).2 ⟨hnone, hfrom, rfl⟩
  · rw [hq] at hon
    cases hon

theorem State.groupLaw.turnsToDrop (h : s.groupLaw) (hq : (s.win w).state = .quiescing) :
    (s.modWin w fun x => { x with quiesceMode := some .drop }).groupLaw := by
  obtain ⟨hshape, hfrom, -, hmem⟩ := (Window.law_quiescing hq).1 (h.1 w)
  refine h.at (.modWin s rfl) ?_ fun hon => ?_
  · rw [State.win_modWin_same]
    exact (Window.law_quiescing (x := { s.win w with quiesceMode := some .drop }) hq).2 ⟨hshape, hfrom, rfl, hmem⟩
  · rw [hq] at hon
    cases hon

theorem State.groupLaw.onlines (h : s.groupLaw) (hoff : (s.win w).state = .offline) :
    (s.modWin w fun x => { x with state := .online }).groupLaw := by
  obtain ⟨hnone, hfrom, hmode⟩ := (Window.law_idle (by rw [hoff]; rfl)).1 (h.1 w)
  refine h.at (.modWin s rfl) ?_ fun hon => ?_
  · rw [State.win_modWin_same]
    refine (Window.law_online rfl).2 ⟨?_, hfrom, hmode, fun g hg => ?_⟩
    · rw [hnone]
      exact ⟨Nat.zero_le _, List.Pairwise.nil⟩
    · rw [hnone] at hg
      cases hg
  · rw [hoff] at hon
    cases hon

theorem State.groupLaw.holds (h : s.groupLaw) {y : Held} (hslot : ∀ z ∈ s.holds, z.slot ≠ y.slot)
    (hon : (s.win y.window).state = .online) : State.groupLaw { s with holds := s.holds ++ [y] } := by
  obtain ⟨hwin, hslots, honline⟩ := h
  refine ⟨hwin, ?_, fun z hz => ?_⟩
  · rw [List.map_append, List.map_singleton, List.nodup_append]
    refine ⟨hslots, List.nodup_singleton _, fun a ha b hb => ?_⟩
    obtain ⟨z, hz, rfl⟩ := List.mem_map.1 ha
    rw [List.mem_singleton.1 hb]
    exact hslot z hz
  · rcases List.mem_append.1 hz with hz | hz
    · exact honline z hz
    · rw [List.mem_singleton.1 hz]
      exact hon

end

end Sys2Proof.Machine
end

section
/-! O6. The law of a soft reset (R157, R185), the table law as a law of the queues, and through a step. -/

namespace Sys2Proof.Machine

/-! ### The state of a window through the drain engine -/

section
variable (s : State) (w : WIdx)

theorem State.takeLoop_state (n : Nat) : ((State.takeLoop n s w).win w).state = (s.win w).state := by
  induction n generalizing s with
  | zero => rfl
  | succ n ih =>
    unfold State.takeLoop
    split
    · rfl
    · split
      · split
        · split
          · rw [State.win_setOldest]
          · rw [ih, State.win_publishOldest, State.win_setOldest]
        · rw [State.win_setOldest]
      · rfl

/-- An empty QUIESCING queue ends the quiesce (R33), and the drain engine changes no state besides. -/
theorem State.offlineIfEmpty_state :
    ((s.offlineIfEmpty w).win w).state = (s.win w).state ∨ ((s.offlineIfEmpty w).win w).state = .offline := by
  unfold State.offlineIfEmpty
  split
  · exact .inr (by rw [State.win_post, State.win_modWin_same])
  · exact .inl rfl

theorem State.drainTake_state :
    ((s.drainTake w).win w).state = (s.win w).state ∨ ((s.drainTake w).win w).state = .offline := by
  have h := State.offlineIfEmpty_state (State.takeLoop (s.win w).groups.length s w) w
  rwa [State.takeLoop_state] at h

end

/-! ### The law of a soft reset -/

/-- The table law, without the law of a soft reset where `full` is false. -/
def State.tableLawIf (full : Bool) (s : State) : Prop := s.groupLaw ∧ (full = true → s.softLaw)

theorem State.tableLawIf_true {s : State} : s.tableLawIf true ↔ s.tableLaw :=
  ⟨fun ⟨⟨hwin, hhold⟩, hsoft⟩ => ⟨hwin, hhold, hsoft rfl⟩, fun ⟨hwin, hhold, hsoft⟩ => ⟨⟨hwin, hhold⟩, fun _ => hsoft⟩⟩

section
variable {full : Bool} {s t : State} {w : WIdx} {g : Group}

/-- A change at one window, which does not become ONLINE or FROZEN while a soft reset is in progress. -/
theorem State.tableLawIf.at (h : s.tableLawIf full) (ht : t.groupLaw) (hat : AtWindow w s t)
    (hstate : full = true → t.softReset = true →
      (t.win w).state = (s.win w).state ∨ ((t.win w).state ≠ .online ∧ (t.win w).state ≠ .frozen)) : t.tableLawIf full := by
  refine ⟨ht, fun hfull hsoft v => ?_⟩
  have hs := h.2 hfull (hat.softReset ▸ hsoft)
  by_cases hv : v = w
  · rw [hv]
    rcases hstate hfull hsoft with heq | hnot
    · rw [heq]
      exact hs w
    · exact hnot
  · rw [(hat.others v hv).1]
    exact hs v

theorem State.tableLawIf.keeps_state (h : s.tableLawIf full) (ht : t.groupLaw) (hat : AtWindow w s t)
    (hstate : (t.win w).state = (s.win w).state) : t.tableLawIf full :=
  h.at ht hat fun _ _ => .inl hstate

/-- A drain failure during a soft reset: the window, QUIESCING, freezes, and returns as its group is abandoned (R126). -/
theorem State.tableLawIf.softFails (h : s.tableLawIf full) (l : Line) (hsoft : s.softReset = true) (hg : s.oldest w = some g)
    (hd : g.state = .draining ∨ g.state = .marking) :
    State.tableLawIf full (((s.frozenBehind w g l).modWin w Window.unfreeze).abandoned w (g.failed l)) := by
  have hfrozen := h.1.freezes hg hd l
  obtain ⟨hstate, hfrom, -, -⟩ := State.win_frozenBehind h.1 hg hd l
  refine h.at (hfrozen.abandons hstate _)
    ((AtWindow.frozenBehind s g l).trans ((State.unfreeze_area_at _ w).trans (.abandoned _ _))) fun hfull _ => ?_
  have hnot := h.2 hfull hsoft w
  rw [if_neg hnot.1] at hfrom
  refine .inr ?_
  rw [State.win_abandoned, State.win_modWin_same]
  simp [Window.unfreeze, hstate, hfrom]

/-- The table law is a law of the queues. -/
theorem tableQueues (full : Bool) : QueueLaw fun _ s => s.tableLawIf full where
  table h := h.1
  mono h := h
  same h hs := h.at (w := 0) (State.groupLaw_congr h.1 hs) (.of_same hs) fun _ _ => .inl (hs.state 0)
  mapSlots _ h := h
  holds hslot hon h := ⟨h.1.holds hslot hon, h.2⟩
  opens src _ hon hno hroom h :=
    h.keeps_state (h.1.opens src hon hno hroom) (.modWin _ rfl) (by rw [State.openGroup, State.win_modWin_same])
  seals c m pm hg ho h :=
    h.keeps_state (h.1.seals c m pm hg ho) (.setYoungest _ _) (by rw [State.win_setYoungest])
  breaks c l hg ho h := h.keeps_state (h.1.breaks c l hg ho) (.breakOpen _ c l) (by rw [State.win_breakOpen _ _ hg ho])
  discards c _ hu h := h.keeps_state (h.1.discards c hu) (.discardGroup _ _ c) (by rw [State.win_discardGroup]; rfl)
  releases w e h := h.keeps_state (h.1.releases w e) (.releaseSealed _ e) (by rw [State.win_releaseSealed])
  drains hg hy h := h.keeps_state (h.1.drains hg hy) (.setOldest _ _) (by rw [State.win_setOldest])
  publishes hg hd h := h.keeps_state
    (h.1.publishes hg (by rcases hd with ⟨hd, -⟩ | hd <;> rw [hd] <;> decide)) (.publishOldest _ _) (by rw [State.win_publishOldest])
  allocates hg ho _ h := h.keeps_state (h.1.allocates _ hg ho) (.allocate _ _ _ _) (by rw [State.win_allocate])
  acks hg _ _ h := h.keeps_state (h.1.acks _ hg) (.freeAcked _ _ _) (by rw [State.win_freeAcked])
  ends hq hnone h := h.at (h.1.ends hq hnone) (.modWin _ rfl) fun _ _ => .inr (by simp)
  freezes l hsoft hg hd h := h.at (h.1.freezes hg hd l) (.frozenBehind _ _ _) fun _ ht => by
    rw [(AtWindow.frozenBehind _ _ l).softReset, hsoft] at ht
    cases ht
  softFails l hsoft hg hd h := h.softFails l hsoft hg hd
  retries hfrozen hg h := h.at (h.1.retries hfrozen hg) ((State.unfreeze_area_at _ _).trans (.setOldest _ _)) fun hfull ht =>
    absurd hfrozen (h.2 hfull ht _).2
  abandons hfrozen _ h := h.at (h.1.abandons hfrozen _) ((State.unfreeze_area_at _ _).trans (.abandoned _ _)) fun hfull ht => by
    rw [((State.unfreeze_area_at _ _).trans (.abandoned _ _)).softReset] at ht
    exact absurd hfrozen (h.2 hfull ht _).2
  quiescesDrop {_ s w} hon h := by
    have hat : AtWindow w s ((s.quiesced w .drop).discardUnreleased w .quiesce) := (AtWindow.quiesced s _).trans (.discards _ _ _)
    refine h.at (h.1.quiescesDrop hon) hat fun hfull ht => ?_
    rw [hat.softReset] at ht
    exact absurd hon (h.2 hfull ht w).1
  quiescesFinish {_ s w} hon h := by
    have hat := (AtWindow.quiesced (w := w) s .finish).trans (.finishing s)
    refine h.at (h.1.quiescesFinish hon) hat fun hfull ht => ?_
    have ht := hat.softReset.symm.trans ht
    exact absurd hon (h.2 hfull ht w).1
  turnsToDrop hq h := h.keeps_state (h.1.turnsToDrop hq) (.modWin _ rfl) (by rw [State.win_modWin_same])
  unmarks w h := h.keeps_state (h.1.unmarks w) (.unmark _) (by rw [State.unmark, State.win_modWin_same])

/-! ### The steps of a soft reset (R184) -/

/-- A fold over windows that settles each window it visits, and leaves the others as they are. -/
theorem foldl_settles {f : State → WIdx → State} {inv : State → Prop} {p : Window → Prop} (hinv : ∀ u v, inv u → inv (f u v))
    (honly : ∀ u v, OnlyAt v u (f u v)) (hself : ∀ u v, inv u → p ((f u v).win v)) (l : List WIdx) (hs : inv s) :
    ∀ v, (v ∈ l ∨ p (s.win v)) → p ((l.foldl f s).win v) := by
  induction l generalizing s with
  | nil => exact fun v hv => hv.resolve_left List.not_mem_nil
  | cons u l ih =>
    intro v hv
    refine ih (hinv s u hs) v ?_
    by_cases huv : v = u
    · rw [huv]
      exact .inr (hself s u hs)
    · rcases hv with hv | hv
      · exact .inl ((List.mem_cons.1 hv).resolve_left huv)
      · rw [honly s u v huv]
        exact .inr hv

theorem OnlyAt.abandoned (s : State) (g : Group) : OnlyAt w s (s.abandoned w g) :=
  (OnlyAt.freeGroupSlots s w g.number).trans ((OnlyAt.of_windows (by simp)).trans ((OnlyAt.answerPending _ g _).trans
    ((OnlyAt.post _ w _).trans ((OnlyAt.modWin _ _).trans ((OnlyAt.modWin _ _).trans (.windowTrigger _ w))))))

theorem OnlyAt.abandonFaulted (s : State) : OnlyAt w s (s.abandonFaulted w) := by
  unfold State.abandonFaulted
  split
  · split
    · exact (OnlyAt.abandoned s _).trans (.drainTake _)
    · exact .refl s
  · exact .refl s

theorem OnlyAt.softAbandon (s : State) : OnlyAt w s (s.softAbandon w) := by
  unfold State.softAbandon
  split
  · exact (OnlyAt.modWin s _).trans (.abandonFaulted _)
  · exact .refl s

theorem OnlyAt.refuseHeld (s : State) : OnlyAt w s (s.refuseHeld w) := by
  have hfold : ∀ (l : List Held), (∀ h ∈ l, h.window = w) → ∀ s : State,
      OnlyAt w s (l.foldl (fun s h => s.refuseWrite h.toWrite .windowState) s) := fun l => by
    induction l with
    | nil => exact fun _ s => .refl s
    | cons h l ih =>
      intro hl s
      have hone : OnlyAt w s (s.refuseWrite h.toWrite .windowState) := fun v hv => by
        rw [State.refuseWrite, State.bumpRefused, State.win_modWin_other _ _ (by rw [Held.toWrite, hl h (by simp)]; exact hv),
          State.win_post, State.win_endWrite]
      exact hone.trans (ih (fun y hy => hl y (by simp [hy])) _)
  exact hfold _ (fun h hh => by simpa using (List.mem_filter.1 hh).2) s

theorem OnlyAt.quiesced (s : State) (m : QuiesceMode) : OnlyAt w s (s.quiesced w m) := (OnlyAt.modWin s _).trans (.refuseHeld _)

theorem OnlyAt.quiesceDrop (s : State) : OnlyAt w s (s.quiesceDrop w) :=
  (OnlyAt.quiesced s .drop).trans ((OnlyAt.discards w _ _ _).trans (.offlineIfEmpty _))

theorem OnlyAt.softQuiesce (s : State) : OnlyAt w s (s.softQuiesce w) := by
  unfold State.softQuiesce
  split
  · exact .quiesceDrop s
  · exact .modWin s _
  all_goals exact .refl s

/-- Step 1 of R184 leaves no window FROZEN. -/
theorem State.softAbandon_state (h : s.groupLaw) (w : WIdx) : ((s.softAbandon w).win w).state ≠ .frozen := by
  unfold State.softAbandon
  split
  · next hfrozen =>
    obtain ⟨g, hg, hfaulted⟩ := h.faulted_of_frozen hfrozen
    obtain ⟨-, hsome, -⟩ := (Window.law_frozen hfrozen).1 (h.1 w)
    obtain ⟨f, hf⟩ := Option.isSome_iff_exists.1 hsome
    rw [State.abandonFaulted_eq ((s.oldest_unfreeze w w).trans hg) hfaulted]
    have hthawed : (((s.modWin w Window.unfreeze).abandoned w g).win w).state ≠ .frozen := by
      rw [State.win_abandoned, State.win_modWin_same]
      cases f <;> simp [Window.unfreeze, hfrozen, hf]
    rcases State.drainTake_state ((s.modWin w Window.unfreeze).abandoned w g) w with heq | heq
    · rw [heq]
      exact hthawed
    · rw [heq]
      decide
  · next hnot => exact hnot

/-- Step 2 of R184 leaves no window ONLINE. -/
theorem State.softQuiesce_state (hnot : (s.win w).state ≠ .frozen) :
    ((s.softQuiesce w).win w).state ≠ .online ∧ ((s.softQuiesce w).win w).state ≠ .frozen := by
  unfold State.softQuiesce
  split
  · have hq : (((s.quiesced w .drop).discardUnreleased w .quiesce).win w).state = .quiescing := by
      rw [State.discardUnreleased, State.discards_win]
      exact (s.quiesced_window w .drop).1
    rcases State.offlineIfEmpty_state ((s.quiesced w .drop).discardUnreleased w .quiesce) w with heq | heq
    · rw [show s.quiesceDrop w = ((s.quiesced w .drop).discardUnreleased w .quiesce).offlineIfEmpty w from rfl, heq, hq]
      exact ⟨by decide, by decide⟩
    · rw [show s.quiesceDrop w = ((s.quiesced w .drop).discardUnreleased w .quiesce).offlineIfEmpty w from rfl, heq]
      exact ⟨by decide, by decide⟩
  · next hq =>
    rw [State.win_modWin_same]
    dsimp only
    rw [hq]
    exact ⟨by decide, by decide⟩
  · next hf => exact absurd hf hnot
  · next hoff =>
    rw [hoff]
    exact ⟨by decide, by decide⟩
  · next hunused =>
    rw [hunused]
    exact ⟨by decide, by decide⟩

/-- The two steps of a soft reset, at every window. -/
def State.softSteps (s : State) (o q : List WIdx) : State :=
  (visitOrder q).foldl State.softQuiesce ((visitOrder o).foldl State.softAbandon s)

/-- After them no window is ONLINE or FROZEN (R185). -/
theorem State.softSteps_states (h : s.groupLaw) (o q : List WIdx) (w : WIdx) :
    ((s.softSteps o q).win w).state ≠ .online ∧ ((s.softSteps o q).win w).state ≠ .frozen := by
  have hqueues := tableQueues false
  have hlaw : ∀ {u : State}, u.groupLaw ↔ u.tableLawIf false := ⟨fun hu => ⟨hu, fun hf => by cases hf⟩, fun hu => hu.1⟩
  have hthawed : ∀ v, (((visitOrder o).foldl State.softAbandon s).win v).state ≠ .frozen := fun v =>
    foldl_settles (inv := State.groupLaw) (p := fun x => x.state ≠ .frozen)
      (fun u v hu => hlaw.2 (hqueues.softAbandon (k := 0) (hlaw.1 hu))) (fun u v => .softAbandon u)
      (fun u v hu => State.softAbandon_state hu v) _ h v (.inl (mem_visitOrder o v))
  refine foldl_settles (inv := fun u => ∀ v, (u.win v).state ≠ .frozen) (p := fun x => x.state ≠ .online ∧ x.state ≠ .frozen)
    (fun u v hu x => ?_) (fun u v => .softQuiesce u) (fun u v hu => State.softQuiesce_state (hu v)) _ hthawed w
    (.inl (mem_visitOrder q w))
  by_cases hx : x = v
  · rw [hx]
    exact (State.softQuiesce_state (hu v)).2
  · rw [OnlyAt.softQuiesce u x hx]
    exact hu x

/-! ### A step -/

/-- At the end of a soft reset nothing is held, so the records at their zero values are lawful (R186). -/
theorem State.tableLawIf.ended (h : s.tableLawIf true) : s.softResetCheck.tableLawIf true := by
  unfold State.softResetCheck
  split
  · next hends =>
    have hnone : s.holds = [] := List.eq_nil_iff_forall_not_mem.2 fun y hy =>
      absurd (h.1.2.2 y hy) (h.2 rfl hends.1 y.window).1
    have hwin : ∀ v, s.endSoftReset.win v = Window.zero := fun v => by simp [State.endSoftReset, State.win]
    refine ⟨⟨fun v => ?_, ?_, fun y hy => ?_⟩, fun _ hsoft => ?_⟩
    · rw [hwin]
      exact Window.law_zero
    · simp [State.endSoftReset, hnone]
    · simp [State.endSoftReset, hnone] at hy
    · simp [State.endSoftReset] at hsoft
  · exact h

theorem State.tableLawIf.begins (h : s.tableLawIf true) (o q : List WIdx) : (s.beginSoftReset o q).tableLawIf true := by
  have hbegun : State.tableLawIf false { s with softReset := true } := ⟨h.1, fun hf => by cases hf⟩
  have hsteps := (tableQueues false).softSteps (k := 0) o q hbegun
  exact State.tableLawIf.ended ⟨hsteps.1, fun _ _ => State.softSteps_states hbegun.1 o q⟩

/-- A window that is not live takes a record without groups, not live. -/
theorem State.tableLawIf.setIdle (h : s.tableLawIf full) {x : Window} (hidle : (s.win w).state.live = false) (hx : x.law)
    (hstate : x.state.live = false) : (s.setWin w x).tableLawIf full := by
  obtain ⟨⟨hwin, hslots, honline⟩, hsoft⟩ := h
  refine ⟨⟨fun v => ?_, hslots, fun y hy => ?_⟩, fun hfull ht v => ?_⟩
  · rw [State.win_setWin]
    split
    · exact hx
    · exact hwin v
  · have hon := honline y hy
    have hne : y.window ≠ w := fun heq => by
      rw [heq] at hon
      rw [hon] at hidle
      cases hidle
    rw [State.win_setWin_other _ _ hne]
    exact hon
  · rw [State.win_setWin]
    split
    · constructor <;> intro hs <;> rw [hs] at hstate <;> cases hstate
    · exact hsoft hfull ht v

theorem State.tableLawIf.configures (h : s.tableLawIf full) (w : WIdx) (op : WindowOperands) :
    (s.writeWindow w op).state.tableLawIf full := by
  unfold State.writeWindow
  split
  · unfold State.writeEnables
    split
    · split
      · exact h
      · next en _ =>
        exact (tableQueues full).same (k := 0) h
          (SameQueues.modWin s w (f := fun x => { x with enables := en }) ⟨rfl, rfl, rfl, rfl, rfl, rfl⟩)
    · exact h
  · next hidle =>
    have hidle : (s.win w).state.live = false := by simpa using hidle
    obtain ⟨hnone, hfrom, hmode⟩ := (Window.law_idle hidle).1 (h.1.1 w)
    by_cases hz : op.size = 0
    · rw [State.configureWindow_zero hz]
      exact h.setIdle hidle ((Window.law_idle rfl).2 ⟨hnone, rfl, rfl⟩) rfl
    · cases hf : opFields? op with
      | none => rw [State.configureWindow, if_neg hz, hf]; exact h
      | some f =>
        rw [State.configureWindow_fields hz hf]
        split
        · exact h
        · exact h.setIdle hidle ((Window.law_idle rfl).2 ⟨hnone, hfrom, hmode⟩) rfl

end

/-- The table law is kept by the commands of the port and by the resets. -/
theorem tableSteps : StepLaw fun _ s => s.tableLawIf true where
  toQueueLaw := tableQueues true
  ended h := h.ended
  poweredOn _ := State.tableLawIf_true.2 tableLaw_reset
  configures w op h := h.configures w op
  extents a first count h := by
    unfold State.writeArea
    repeat' split
    all_goals exact h
  onlines hsoft hoff h := h.at (h.1.onlines hoff) (.modWin _ rfl) fun _ ht => by
    rw [State.modWin_softReset, hsoft] at ht
    cases ht
  begins o q h := h.begins o q

/-- Settles O6: each change of a queue keeps the window's record lawful, and the windows not ONLINE or FROZEN in a soft reset. -/
theorem stepKeepsTableLaw : Obligations.StepKeepsTableLaw := fun _ _ hs hstep =>
  State.tableLawIf_true.1 (tableSteps.step (k := 0) (by decide) hstep (State.tableLawIf_true.2 hs))

end Sys2Proof.Machine
end

section
/-! O9. Entries, entry counts and used counts (R25, R41, R42, R60, R62), through each change of a queue and through a step. -/

namespace Sys2Proof.Machine

/-! ### Entries and one queue, entries and the areas -/

/-- The entries of window `w` and the records of its queue agree: every entry has its group, every count is the number of the group's
entries, none in BROKEN and MARKING (R60, R62). -/
def entriesAgree (es : List Entry) (w : WIdx) (l : List Group) : Prop :=
  (∀ e ∈ es, e.window = w → ∃ g ∈ l, g.number = e.group) ∧
    ∀ g ∈ l, (g.entryCount = es.countP fun e => e.ofGroup w g.number) ∧ (g.state = .broken ∨ g.state = .marking → g.entryCount = 0)

/-- The entries lie in the extents of their windows' areas, whose used counts number them (R41, R42). -/
def State.entriesPlaced (s : State) : Prop :=
  (∀ e ∈ s.slots, (s.area (s.win e.window).area).holds e.slot = true) ∧
    ∀ a : AIdx, (s.area a).used = s.slots.countP fun e => (s.win e.window).area == a

/-- No two records of the queue bear the same number, and each is one of the last `k` that the window opened (R25). -/
def Window.openedLately (k : Nat) (x : Window) : Prop :=
  (x.groups.map Group.number).Nodup ∧ ∀ g ∈ x.groups, 1 ≤ (x.nextGroup - g.number).toNat ∧ (x.nextGroup - g.number).toNat ≤ k

/-- The entry law, of slots that each hold one entry, with the numbers of the last `k` openings. -/
structure State.entriesLaw (k : Nat) (s : State) : Prop where
  slots : (s.slots.map Entry.slot).Nodup
  placed : s.entriesPlaced
  agree : ∀ w : WIdx, entriesAgree s.slots w (s.win w).groups
  lately : ∀ w : WIdx, (s.win w).openedLately k

theorem Entry.ofGroup_iff {e : Entry} {w : WIdx} {n : Byte} : e.ofGroup w n = true ↔ e.window = w ∧ e.group = n := by
  simp [Entry.ofGroup]

theorem State.entryLaw_of_entriesLaw {k : Nat} {s : State} (h : s.entriesLaw k) : s.entryLaw := by
  obtain ⟨-, ⟨hplace, hused⟩, hagree, -⟩ := h
  exact ⟨fun e he => ⟨(hagree e.window).1 e he rfl, hplace e he⟩, fun w => (hagree w).2, hused⟩

theorem State.entriesLaw_of_entryLaw {s : State} (h : s.entryLaw) (hslots : slotsWf s.slots = true) (hfresh : s.numbersFresh) :
    s.entriesLaw 247 := by
  obtain ⟨hentries, hcounts, hused⟩ := h
  have hpair : (s.slots.map Entry.slot).Pairwise (· < ·) := by
    rw [slotsWf, Bool.and_eq_true, decide_eq_true_eq] at hslots
    exact hslots.1
  exact ⟨hpair.imp fun hlt => Nat.ne_of_lt hlt, ⟨fun e he => (hentries e he).2, hused⟩,
    fun w => ⟨fun e he hw => hw ▸ (hentries e he).1, hcounts w⟩, hfresh⟩

/-! ### Counting -/

section
variable {α : Type} {p q : α → Bool} {l : List α}

theorem countP_filter_of_imp (h : ∀ a ∈ l, p a = true → q a = false) : (l.filter fun a => !q a).countP p = l.countP p := by
  rw [List.countP_filter]
  refine List.countP_congr fun a ha => ?_
  have := h a ha
  cases hp : p a <;> cases hq : q a <;> simp_all

theorem countP_filter_sub (h : ∀ a ∈ l, q a = true → p a = true) : (l.filter fun a => !q a).countP p = l.countP p - l.countP q := by
  have hsplit := List.countP_eq_countP_filter_add l p q
  have hall : (l.filter q).countP p = l.countP q := by
    rw [List.countP_filter]
    refine List.countP_congr fun a ha => ?_
    have := h a ha
    cases hq : q a <;> simp_all
  rw [hall] at hsplit
  omega

end

/-! ### A queue changes, the entries do not -/

theorem AtWindow.area_eq {w : WIdx} {s t : State} (h : AtWindow w s t) (v : WIdx) : (t.win v).area = (s.win v).area := by
  by_cases hv : v = w
  · rw [hv]
    exact h.area
  · exact (h.others v hv).2.2.2.2.2

section
variable {k : Nat} {s t u : State} {w : WIdx} {g y : Group}

theorem State.area_of_areas (h : t.areas = s.areas) (a : AIdx) : t.area a = s.area a := by
  rw [State.area, h]
  rfl

theorem State.entriesPlaced.congr (h : s.entriesPlaced) (hslots : t.slots = s.slots) (harea : ∀ a, t.area a = s.area a)
    (hwin : ∀ v, (t.win v).area = (s.win v).area) : t.entriesPlaced := by
  obtain ⟨hplace, hused⟩ := h
  refine ⟨fun e he => ?_, fun a => ?_⟩
  · rw [hslots] at he
    rw [harea, hwin]
    exact hplace e he
  · rw [harea, hslots, hused]
    simp only [hwin]

theorem Window.openedLately.of_sublist {x z : Window} (h : x.openedLately k) (hnext : z.nextGroup = x.nextGroup)
    (hnum : (z.groups.map Group.number).Sublist (x.groups.map Group.number)) : z.openedLately k := by
  refine ⟨h.1.sublist hnum, fun g hg => ?_⟩
  obtain ⟨a, ha, hn⟩ := List.mem_map.1 (hnum.subset (List.mem_map_of_mem hg))
  rw [hnext, ← hn]
  exact h.2 a ha

/-- Groups without entries may leave the queue, and others change but for number and entry count. -/
theorem entriesAgree.requeue {es : List Entry} {l m : List Group} (h : entriesAgree es w l)
    (hback : ∀ b ∈ m, ∃ a ∈ l, b.number = a.number ∧ b.entryCount = a.entryCount ∧
      (b.state = .broken ∨ b.state = .marking → a.entryCount = 0))
    (hforth : ∀ a ∈ l, a.entryCount ≠ 0 → ∃ b ∈ m, b.number = a.number) : entriesAgree es w m := by
  refine ⟨fun e he hw => ?_, fun b hb => ?_⟩
  · obtain ⟨a, ha, hn⟩ := h.1 e he hw
    have hpos : a.entryCount ≠ 0 := by
      rw [(h.2 a ha).1]
      exact (List.countP_pos_iff.2 ⟨e, he, Entry.ofGroup_iff.2 ⟨hw, hn.symm⟩⟩).ne'
    obtain ⟨b, hb, hbn⟩ := hforth a ha hpos
    exact ⟨b, hb, hbn.trans hn⟩
  · obtain ⟨a, ha, hn, hc, hnone⟩ := hback b hb
    rw [hn, hc]
    exact ⟨(h.2 a ha).1, hnone⟩

namespace State.entriesLaw

theorem mono (h : s.entriesLaw k) : s.entriesLaw (k + 1) :=
  ⟨h.slots, h.placed, h.agree, fun w => ⟨(h.lately w).1, fun g hg => ⟨((h.lately w).2 g hg).1, Nat.le_succ_of_le ((h.lately w).2 g hg).2⟩⟩⟩

theorem requeue (h : s.entriesLaw k) (hat : AtWindow w s t) (hslots : t.slots = s.slots) (hareas : t.areas = s.areas)
    (hnext : (t.win w).nextGroup = (s.win w).nextGroup)
    (hnum : ((t.win w).groups.map Group.number).Sublist ((s.win w).groups.map Group.number))
    (hback : ∀ b ∈ (t.win w).groups, ∃ a ∈ (s.win w).groups, b.number = a.number ∧ b.entryCount = a.entryCount ∧
      (b.state = .broken ∨ b.state = .marking → a.entryCount = 0))
    (hforth : ∀ a ∈ (s.win w).groups, a.entryCount ≠ 0 → ∃ b ∈ (t.win w).groups, b.number = a.number) : t.entriesLaw k := by
  refine ⟨by rw [hslots]; exact h.slots, h.placed.congr hslots (State.area_of_areas hareas) hat.area_eq, fun v => ?_, fun v => ?_⟩
  · rw [hslots]
    by_cases hv : v = w
    · rw [hv]
      exact (h.agree w).requeue hback hforth
    · rw [(hat.others v hv).2.2.2.1]
      exact h.agree v
  · by_cases hv : v = w
    · rw [hv]
      exact (h.lately w).of_sublist hnext hnum
    · obtain ⟨-, -, -, hg, hn, -⟩ := hat.others v hv
      exact (h.lately v).of_sublist hn (by rw [hg])

theorem same (h : s.entriesLaw k) (hs : SameQueues s t) : t.entriesLaw k := by
  obtain ⟨-, -, -, hg, hn, -⟩ := hs.win 0
  refine h.requeue (w := 0) (.of_same hs) hs.slots hs.areas hn (by rw [hg]) (fun b hb => ?_) fun a ha _ => ?_
  · rw [hg] at hb
    exact ⟨b, hb, rfl, rfl, ((h.agree 0).2 b hb).2⟩
  · rw [← hg] at ha
    exact ⟨a, ha, rfl⟩

/-- The oldest record gives way to one of the same number and entry count. -/
theorem setHead (h : s.entriesLaw k) (hg : s.oldest w = some g) (hn : y.number = g.number) (hc : y.entryCount = g.entryCount)
    (hnone : y.state = .broken ∨ y.state = .marking → g.entryCount = 0) : (s.setOldest w y).entriesLaw k := by
  have hold := State.groups_of_oldest hg
  have hwin := s.win_setOldest w y
  refine h.requeue (.setOldest s y) rfl rfl (by rw [hwin]) ?_ (fun b hb => ?_) fun a ha _ => ?_
  · rw [hwin, List.map_cons, hn, ← List.map_cons, ← hold]
  · rw [hwin] at hb
    rcases List.mem_cons.1 hb with rfl | hb
    · exact ⟨g, State.mem_of_oldest hg, hn, hc, hnone⟩
    · exact ⟨b, List.mem_of_mem_tail hb, rfl, rfl, ((h.agree w).2 b (List.mem_of_mem_tail hb)).2⟩
  · rw [hold] at ha
    rw [hwin]
    rcases List.mem_cons.1 ha with rfl | ha
    · exact ⟨y, List.mem_cons_self, hn⟩
    · exact ⟨a, List.mem_cons_of_mem _ ha, rfl⟩

/-- The youngest record gives way to one of the same number and entry count, not BROKEN or MARKING. -/
theorem setLast (h : s.entriesLaw k) (hg : s.youngest w = some g) (hn : y.number = g.number) (hc : y.entryCount = g.entryCount)
    (hstate : y.state ≠ .broken ∧ y.state ≠ .marking) : (s.setYoungest w y).entriesLaw k := by
  have hold := State.groups_of_youngest hg
  have hwin := s.win_setYoungest w y
  refine h.requeue (.setYoungest s y) rfl rfl (by rw [hwin]) ?_ (fun b hb => ?_) fun a ha _ => ?_
  · have hnum : ((s.win w).groups.dropLast ++ [y]).map Group.number = (s.win w).groups.map Group.number := by
      conv_rhs => rw [hold]
      simp [hn]
    rw [hwin, hnum]
  · rw [hwin] at hb
    rcases List.mem_append.1 hb with hb | hb
    · exact ⟨b, List.mem_of_mem_dropLast hb, rfl, rfl, ((h.agree w).2 b (List.mem_of_mem_dropLast hb)).2⟩
    · rw [List.mem_singleton.1 hb]
      exact ⟨g, State.mem_of_youngest hg, hn, hc, fun hs => absurd hs (not_or.2 hstate)⟩
  · rw [hold] at ha
    rw [hwin]
    rcases List.mem_append.1 ha with ha | ha
    · exact ⟨a, List.mem_append_left _ ha, rfl⟩
    · rw [List.mem_singleton.1 ha]
      exact ⟨y, by simp, hn⟩

/-- Every record of a queue changes, but for its number and entry count, and none becomes BROKEN or MARKING. -/
theorem mapQueue (h : s.entriesLaw k) {f : Group → Group}
    (hf : ∀ g, (f g).number = g.number ∧ (f g).entryCount = g.entryCount ∧
      ((f g).state = .broken ∨ (f g).state = .marking → (f g).state = g.state)) :
    (s.modWin w fun x => { x with groups := x.groups.map f }).entriesLaw k := by
  refine h.requeue (.modWin s rfl) rfl rfl (by rw [State.win_modWin_same]) ?_ (fun b hb => ?_) fun a ha _ => ?_
  · rw [State.win_modWin_same, List.map_map]
    exact (List.map_congr_left fun g _ => (hf g).1) ▸ List.Sublist.refl _
  · rw [State.win_modWin_same] at hb
    obtain ⟨a, ha, rfl⟩ := List.mem_map.1 hb
    exact ⟨a, ha, (hf a).1, (hf a).2.1, fun hs => ((h.agree w).2 a ha).2 (by rw [← (hf a).2.2 hs]; exact hs)⟩
  · rw [State.win_modWin_same]
    exact ⟨f a, List.mem_map_of_mem ha, (hf a).1⟩

/-- The oldest record leaves the queue, without entries. -/
theorem dropHead (h : s.entriesLaw k) (hg : s.oldest w = some g) (hc : g.entryCount = 0) :
    (s.modWin w fun x => { x with groups := x.groups.tail }).entriesLaw k := by
  have hold := State.groups_of_oldest hg
  refine h.requeue (.modWin s rfl) rfl rfl (by rw [State.win_modWin_same]) ?_ (fun b hb => ?_) fun a ha hpos => ?_
  · rw [State.win_modWin_same]
    exact (List.tail_sublist _).map _
  · rw [State.win_modWin_same] at hb
    exact ⟨b, List.mem_of_mem_tail hb, rfl, rfl, ((h.agree w).2 b (List.mem_of_mem_tail hb)).2⟩
  · rw [hold] at ha
    rw [State.win_modWin_same]
    rcases List.mem_cons.1 ha with rfl | ha
    · exact absurd hc hpos
    · exact ⟨a, ha, rfl⟩

/-- A window's record changes outside its queue, its area and its next group number. -/
theorem restate (h : s.entriesLaw k) {f : Window → Window} (hg : (f (s.win w)).groups = (s.win w).groups)
    (ha : (f (s.win w)).area = (s.win w).area) (hn : (f (s.win w)).nextGroup = (s.win w).nextGroup) :
    (s.modWin w f).entriesLaw k := by
  refine h.requeue (.modWin s ha) rfl rfl (by rw [State.win_modWin_same]; exact hn) (by rw [State.win_modWin_same, hg])
    (fun b hb => ?_) fun a ha _ => ?_
  · rw [State.win_modWin_same, hg] at hb
    exact ⟨b, hb, rfl, rfl, ((h.agree w).2 b hb).2⟩
  · exact ⟨a, by rw [State.win_modWin_same, hg]; exact ha, rfl⟩

/-- Entries change, but not in their slots, groups and lines. -/
theorem mapSlots (h : s.entriesLaw k) {f : Entry → Entry} (hf : ∀ e : Entry, (f e).slot = e.slot ∧ (f e).key = e.key) :
    State.entriesLaw k { s with slots := s.slots.map f } := by
  have hwindow : ∀ e, (f e).window = e.window := fun e => congrArg Prod.fst (hf e).2
  have hgroup : ∀ e, (f e).group = e.group := fun e => congrArg (fun x => x.2.1) (hf e).2
  have hof : ∀ w n, (fun e : Entry => e.ofGroup w n) ∘ f = fun e => e.ofGroup w n := fun w n => by
    funext e
    simp [Entry.ofGroup, hwindow, hgroup]
  refine ⟨?_, ⟨fun e he => ?_, fun a => ?_⟩, fun w => ⟨fun e he hw => ?_, fun g hg => ?_⟩, h.lately⟩
  · have hslots : (s.slots.map f).map Entry.slot = s.slots.map Entry.slot := by
      rw [List.map_map]
      exact List.map_congr_left fun e _ => (hf e).1
    rw [hslots]
    exact h.slots
  · obtain ⟨b, hb, rfl⟩ := List.mem_map.1 he
    rw [(hf b).1, hwindow]
    exact h.placed.1 b hb
  · rw [List.countP_map]
    refine (h.placed.2 a).trans (List.countP_congr fun e _ => ?_)
    rw [Function.comp_apply, hwindow]
    rfl
  · obtain ⟨b, hb, rfl⟩ := List.mem_map.1 he
    rw [hwindow] at hw
    rw [hgroup]
    exact (h.agree w).1 b hb hw
  · rw [List.countP_map, hof]
    exact (h.agree w).2 g hg

theorem opens (h : s.entriesLaw k) (src : Source) (hk : k < 255) : (s.openGroup w src).entriesLaw (k + 1) := by
  have hwin : (s.openGroup w src).win w = (s.win w).opened (s.newGroup w src) := by
    rw [State.openGroup, State.win_modWin_same]
    rfl
  have hother : ∀ v, v ≠ w → (s.openGroup w src).win v = s.win v := fun v hv => by rw [State.openGroup, State.win_modWin_other _ _ hv]
  have hnew : ∀ a ∈ (s.win w).groups, a.number ≠ (s.win w).nextGroup := fun a ha heq => by
    have := ((h.lately w).2 a ha).1
    rw [heq] at this
    simp at this
  refine ⟨h.slots, h.placed.congr rfl (fun _ => rfl) fun v => ?_, fun v => ?_, fun v => ?_⟩
  · by_cases hv : v = w
    · rw [hv, hwin]
      rfl
    · rw [hother v hv]
  · by_cases hv : v = w
    · subst hv
      rw [hwin]
      refine ⟨fun e he hw => ?_, fun b hb => ?_⟩
      · obtain ⟨a, ha, hn⟩ := (h.agree v).1 e he hw
        exact ⟨a, List.mem_append_left _ ha, hn⟩
      · rcases List.mem_append.1 hb with hb | hb
        · exact (h.agree v).2 b hb
        · obtain rfl := List.mem_singleton.1 hb
          refine ⟨(List.countP_eq_zero.2 fun e he hof => ?_).symm, fun _ => rfl⟩
          obtain ⟨hw, hn⟩ := Entry.ofGroup_iff.1 hof
          obtain ⟨a, ha, han⟩ := (h.agree v).1 e he hw
          exact hnew a ha (han.trans hn)
    · rw [hother v hv]
      exact h.agree v
  · by_cases hv : v = w
    · subst hv
      rw [hwin]
      refine ⟨?_, fun b hb => ?_⟩
      · simp only [Window.opened, List.map_append, List.map_singleton, List.nodup_append]
        refine ⟨(h.lately v).1, List.nodup_singleton _, fun n hn m hm => ?_⟩
        obtain ⟨a, ha, rfl⟩ := List.mem_map.1 hn
        rw [List.mem_singleton.1 hm]
        exact hnew a ha
      · simp only [Window.opened] at hb ⊢
        rcases List.mem_append.1 hb with hb | hb
        · have := (h.lately v).2 b hb
          have hstep : ((s.win v).nextGroup + 1 - b.number).toNat = ((s.win v).nextGroup - b.number).toNat + 1 := by
            bv_omega
          omega
        · rw [List.mem_singleton.1 hb]
          have hone : ((s.win v).nextGroup + 1 - (s.newGroup v src).number).toNat = 1 := by
            have : (s.newGroup v src).number = (s.win v).nextGroup := rfl
            rw [this]
            bv_omega
          omega
    · rw [hother v hv]
      exact (h.mono.lately v)

end State.entriesLaw

/-! ### The slots of a group are freed (R56) -/

/-- The slots of group `n` of window `w` were freed, and its queue may have changed. -/
structure Freed (w : WIdx) (n : Byte) (s t : State) : Prop where
  at' : AtWindow w s t
  slots : t.slots = s.slots.filter fun e => !e.ofGroup w n
  used : ∀ a : AIdx, t.area a =
    { s.area a with used := (s.area a).used - if a = (s.win w).area then s.slots.countP fun e => e.ofGroup w n else 0 }

namespace Freed

variable {n : Byte}

theorem freeGroupSlots (s : State) (w : WIdx) (n : Byte) : Freed w n s (s.freeGroupSlots w n) :=
  ⟨.freeGroupSlots s n, s.freeGroupSlots_slots w n, s.freeGroupSlots_area w n⟩

theorem same (h : Freed w n s t) (hs : SameQueues t u) : Freed w n s u :=
  ⟨h.at'.trans (.of_same hs), hs.slots.trans h.slots, fun a => (State.area_of_areas hs.areas a).trans (h.used a)⟩

theorem modWin (h : Freed w n s t) {f : Window → Window} (hf : (f (t.win w)).area = (t.win w).area) : Freed w n s (t.modWin w f) :=
  ⟨h.at'.trans (.modWin t hf), h.slots, h.used⟩

theorem discardGroup (s : State) (w : WIdx) (g : Group) (c : Cause) : Freed w g.number s (s.discardGroup w g c) := by
  have hpending : ∀ u : State, SameQueues u (u.refusePending w g) := fun u => by
    unfold State.refusePending
    split
    · exact (SameQueues.answerPending u g _).trans (.bumpRefused _ w)
    · exact .refl u
  exact (((((freeGroupSlots s w g.number).same (hpending _)).same (.post _ w _)).same (.bumpDiscarded _ w)).modWin rfl).same
    (.windowTrigger _ w)

theorem breakOpen (hg : s.youngest w = some g) (ho : g.state = .opened) (c : Cause) (l : Option Line) :
    Freed w g.number s (s.breakOpen w c l) := by
  rw [State.breakOpen_some hg ho]
  exact (((freeGroupSlots s w g.number).modWin rfl).same (.post _ w _)).same (.bumpBroken _ w)

theorem abandoned (s : State) (w : WIdx) (g : Group) : Freed w g.number s (s.abandoned w g) :=
  (((((freeGroupSlots s w g.number).same (.mapCredits _ _)).same (.answerPending _ g _)).same (.post _ w _)).same
    (.bumpDiscarded _ w)).modWin rfl |>.same (.windowTrigger _ w)

/-- The freed group leaves the queue, or stays without entries; the others stay as they are. -/
theorem entriesLaw (h : s.entriesLaw k) (hf : Freed w n s t) (hnext : (t.win w).nextGroup = (s.win w).nextGroup)
    (hnum : ((t.win w).groups.map Group.number).Sublist ((s.win w).groups.map Group.number))
    (hback : ∀ b ∈ (t.win w).groups, (b.number = n ∧ b.entryCount = 0) ∨ (b.number ≠ n ∧ b ∈ (s.win w).groups))
    (hforth : ∀ a ∈ (s.win w).groups, a.number ≠ n → a ∈ (t.win w).groups) : t.entriesLaw k := by
  obtain ⟨hat, hslots, hused⟩ := hf
  have hkept : ∀ {v : WIdx} {m : Byte}, ¬(v = w ∧ m = n) →
      t.slots.countP (fun e => e.ofGroup v m) = s.slots.countP fun e => e.ofGroup v m := fun hne => by
    rw [hslots]
    refine countP_filter_of_imp fun e _ hof => ?_
    by_contra hfreed
    obtain ⟨hw, hm⟩ := Entry.ofGroup_iff.1 hof
    obtain ⟨hw', hm'⟩ := Entry.ofGroup_iff.1 (by simpa using hfreed)
    exact hne ⟨hw.symm.trans hw', hm.symm.trans hm'⟩
  have hmem : ∀ e ∈ t.slots, e ∈ s.slots ∧ e.ofGroup w n = false := fun e he => by
    rw [hslots] at he
    simpa using List.mem_filter.1 he
  refine ⟨?_, ⟨fun e he => ?_, fun a => ?_⟩, fun v => ⟨fun e he hv => ?_, fun b hb => ?_⟩, fun v => ?_⟩
  · rw [hslots]
    exact h.slots.sublist (List.filter_sublist.map _)
  · rw [hat.area_eq, hused]
    exact h.placed.1 e (hmem e he).1
  · rw [hused, hslots]
    simp only [hat.area_eq]
    rw [h.placed.2 a]
    by_cases ha : a = (s.win w).area
    · rw [if_pos ha]
      refine (countP_filter_sub fun e _ hof => ?_).symm
      rw [(Entry.ofGroup_iff.1 hof).1, ha]
      exact beq_self_eq_true _
    · rw [if_neg ha, Nat.sub_zero]
      refine (countP_filter_of_imp fun e _ hp => ?_).symm
      by_contra hfreed
      obtain ⟨hw, -⟩ := Entry.ofGroup_iff.1 (by simpa using hfreed)
      rw [hw, beq_iff_eq] at hp
      exact ha hp.symm
  · obtain ⟨hes, hof⟩ := hmem e he
    obtain ⟨a, ha, hn⟩ := (h.agree v).1 e hes hv
    by_cases hvw : v = w
    · subst hvw
      refine ⟨a, hforth a ha fun heq => ?_, hn⟩
      rw [Entry.ofGroup_iff.2 ⟨hv, hn.symm.trans heq⟩] at hof
      cases hof
    · rw [(hat.others v hvw).2.2.2.1]
      exact ⟨a, ha, hn⟩
  · by_cases hvw : v = w
    · subst hvw
      rcases hback b hb with ⟨hn, hc⟩ | ⟨hn, hb⟩
      · refine ⟨?_, fun _ => hc⟩
        rw [hc, hn]
        refine (List.countP_eq_zero.2 fun e he hof => ?_).symm
        rw [(hmem e he).2] at hof
        cases hof
      · rw [hkept fun hh => hn hh.2]
        exact (h.agree v).2 b hb
    · rw [(hat.others v hvw).2.2.2.1] at hb
      rw [hkept fun hh => hvw hh.1]
      exact (h.agree v).2 b hb
  · by_cases hvw : v = w
    · rw [hvw]
      exact (h.lately w).of_sublist hnext hnum
    · obtain ⟨-, -, -, hg, hn, -⟩ := hat.others v hvw
      exact (h.lately v).of_sublist hn (by rw [hg])

end Freed

end

end Sys2Proof.Machine
end

section
/-! O9. One entry comes or goes (R49, R55); the entry law with the table law as a law of the queues; every step keeps it. -/

namespace Sys2Proof.Machine

section
variable {k : Nat} {s t u : State} {w : WIdx} {g y : Group}

/-! ### One entry comes or goes -/

/-- The entries of one group of window `w` change, and the entry count of its record with them. -/
theorem State.entriesLaw.recount (h : s.entriesLaw k) {n : Byte} (hat : AtWindow w s t) (hslots : (t.slots.map Entry.slot).Nodup)
    (hmem : ∀ e ∈ t.slots, e ∈ s.slots ∨ (e.window = w ∧ e.group = n ∧ (s.area (s.win w).area).holds e.slot = true))
    (hcount : ∀ v m, ¬(v = w ∧ m = n) → t.slots.countP (fun e => e.ofGroup v m) = s.slots.countP fun e => e.ofGroup v m)
    (hextent : ∀ a j, (t.area a).holds j = (s.area a).holds j)
    (hused : ∀ a, (t.area a).used = t.slots.countP fun e => (s.win e.window).area == a)
    (hnext : (t.win w).nextGroup = (s.win w).nextGroup)
    (hnum : (t.win w).groups.map Group.number = (s.win w).groups.map Group.number)
    (hn : n ∈ (s.win w).groups.map Group.number)
    (hback : ∀ b ∈ (t.win w).groups,
      (b.number = n ∧ (b.entryCount = t.slots.countP fun e => e.ofGroup w n) ∧
        (b.state = .broken ∨ b.state = .marking → b.entryCount = 0)) ∨ (b.number ≠ n ∧ b ∈ (s.win w).groups)) :
    t.entriesLaw k := by
  refine ⟨hslots, ⟨fun e he => ?_, fun a => ?_⟩, fun v => ⟨fun e he hv => ?_, fun b hb => ?_⟩, fun v => ?_⟩
  · rw [hat.area_eq, hextent]
    rcases hmem e he with he | ⟨hw, -, hplace⟩
    · exact h.placed.1 e he
    · rw [hw]
      exact hplace
  · rw [hused]
    simp only [hat.area_eq]
  · have hnumber : e.group ∈ (s.win v).groups.map Group.number := by
      rcases hmem e he with he | ⟨hw, hg, -⟩
      · obtain ⟨a, ha, hn⟩ := (h.agree v).1 e he hv
        exact hn ▸ List.mem_map_of_mem ha
      · rw [← hv, hw, hg]
        exact hn
    have hsame : (t.win v).groups.map Group.number = (s.win v).groups.map Group.number := by
      by_cases hvw : v = w
      · rw [hvw]
        exact hnum
      · rw [(hat.others v hvw).2.2.2.1]
    rw [← hsame] at hnumber
    exact List.mem_map.1 hnumber
  · by_cases hvw : v = w
    · subst hvw
      rcases hback b hb with ⟨hbn, hbc, hnone⟩ | ⟨hbn, hb⟩
      · rw [hbn]
        exact ⟨hbc, hnone⟩
      · rw [hcount _ _ fun hh => hbn hh.2]
        exact (h.agree v).2 b hb
    · rw [(hat.others v hvw).2.2.2.1] at hb
      rw [hcount _ _ fun hh => hvw hh.1]
      exact (h.agree v).2 b hb
  · by_cases hvw : v = w
    · rw [hvw]
      exact (h.lately w).of_sublist hnext (by rw [hnum])
    · obtain ⟨-, -, -, hg, hnx, -⟩ := hat.others v hvw
      exact (h.lately v).of_sublist hnx (by rw [hg])

/-- In a queue whose numbers differ, the other records bear other numbers. -/
theorem Window.openedLately.number_ne {x : Window} (h : x.openedLately k) {a b : Group} (ha : a ∈ x.groups) (hb : b ∈ x.groups)
    (hne : a ≠ b) : a.number ≠ b.number := fun heq => hne (List.inj_on_of_nodup_map h.1 ha hb heq)

theorem State.entriesLaw.nodup (h : s.entriesLaw k) (w : WIdx) : (s.win w).groups.Nodup := List.Nodup.of_map _ (h.lately w).1

theorem not_mem_of_nodup_append {α : Type} {l : List α} {a : α} (h : (l ++ [a]).Nodup) : a ∉ l := fun hmem =>
  (List.nodup_append.1 h).2.2 a hmem a (by simp) rfl

/-- The records in front of the youngest bear other numbers than it. -/
theorem State.entriesLaw.number_ne_youngest (h : s.entriesLaw k) (hg : s.youngest w = some g) :
    ∀ b ∈ (s.win w).groups.dropLast, b.number ≠ g.number := fun b hb => by
  have hnodup := h.nodup w
  rw [State.groups_of_youngest hg] at hnodup
  exact (h.lately w).number_ne (List.mem_of_mem_dropLast hb) (State.mem_of_youngest hg) fun heq =>
    not_mem_of_nodup_append hnodup (heq ▸ hb)

/-- The records behind the oldest bear other numbers than it. -/
theorem State.entriesLaw.number_ne_oldest (h : s.entriesLaw k) (hg : s.oldest w = some g) :
    ∀ b ∈ (s.win w).groups.tail, b.number ≠ g.number := fun b hb => by
  have hnodup := h.nodup w
  rw [State.groups_of_oldest hg] at hnodup
  exact (h.lately w).number_ne (List.mem_of_mem_tail hb) (State.mem_of_oldest hg) fun heq =>
    (List.nodup_cons.1 hnodup).1 (heq ▸ hb)

theorem State.slots_allocate (s : State) (x : Write) (g : Group) (j : Nat) :
    (s.allocate x g j).slots = insertEntry (newEntry x g j) s.slots := by
  simp [State.allocate, State.endWrite, State.setYoungest]

theorem State.area_allocate (s : State) (x : Write) (g : Group) (j : Nat) (a : AIdx) :
    (s.allocate x g j).area a =
      { s.area a with used := (s.area a).used + if a = (s.win x.window).area then 1 else 0 } := by
  have harea : (s.allocate x g j).area a =
      (s.setArea (s.win x.window).area { s.area (s.win x.window).area with used := (s.area (s.win x.window).area).used + 1 }).area a := by
    simp [State.allocate, State.endWrite, State.setYoungest]
    rfl
  rw [harea, State.area_setArea]
  split
  · next h => rw [h]
  · rfl

/-- A new entry of the OPEN group (R49). -/
theorem State.entriesLaw.allocates (h : s.entriesLaw k) {x : Write} {j : Nat} (hg : s.youngest x.window = some g)
    (ho : g.state = .opened) (hj : s.freeSlot? (s.win x.window).area = some j) : (s.allocate x g j).entriesLaw k := by
  obtain ⟨hplace, hfree⟩ := s.freeSlot?_some _ j hj
  have hperm := insertEntry_perm (newEntry x g j) s.slots
  have hslots := s.slots_allocate x g j
  have hwin := s.win_allocate x g j
  have hcount : ∀ p : Entry → Bool, (s.allocate x g j).slots.countP p =
      s.slots.countP p + if p (newEntry x g j) = true then 1 else 0 := fun p => by
    rw [hslots, hperm.countP_eq, List.countP_cons]
  have hof : (newEntry x g j).ofGroup x.window g.number = true := Entry.ofGroup_iff.2 ⟨rfl, rfl⟩
  have hcounted := ((h.agree x.window).2 g (State.mem_of_youngest hg)).1
  refine h.recount (n := g.number) (.allocate s x g j) ?_ (fun e he => ?_) (fun v m hne => ?_) (fun a i => ?_) (fun a => ?_) ?_ ?_
    (List.mem_map_of_mem (State.mem_of_youngest hg)) fun b hb => ?_
  · rw [hslots, (hperm.map _).nodup_iff, List.map_cons, List.nodup_cons]
    refine ⟨fun hmem => ?_, h.slots⟩
    obtain ⟨e, he, hs⟩ := List.mem_map.1 hmem
    exact hfree e he hs
  · rw [hslots, mem_insertEntry] at he
    rcases he with rfl | he
    · exact .inr ⟨rfl, rfl, hplace⟩
    · exact .inl he
  · rw [hcount, if_neg fun hh => hne ?_, Nat.add_zero]
    obtain ⟨hw, hm⟩ := Entry.ofGroup_iff.1 hh
    exact ⟨hw.symm, hm.symm⟩
  · rw [State.area_allocate]
    rfl
  · rw [hcount, State.area_allocate]
    dsimp only
    rw [h.placed.2 a]
    congr 1
    by_cases ha : a = (s.win x.window).area
    · rw [if_pos ha, if_pos (by rw [ha]; exact beq_self_eq_true _)]
    · rw [if_neg ha, if_neg fun hh => ha (show (s.win x.window).area = a by simpa [newEntry] using hh).symm]
  · rw [hwin]
  · rw [hwin]
    conv_rhs => rw [State.groups_of_youngest hg]
    simp
  · rw [hwin] at hb
    rcases List.mem_append.1 hb with hb | hb
    · exact .inr ⟨h.number_ne_youngest hg b hb, List.mem_of_mem_dropLast hb⟩
    · rw [List.mem_singleton.1 hb]
      refine .inl ⟨rfl, ?_, fun hs => ?_⟩
      · rw [hcount, if_pos hof, ← hcounted]
      · simp [ho] at hs

theorem State.area_freeAcked (s : State) (w : WIdx) (g : Group) (e : Entry) (a : AIdx) :
    (s.freeAcked w g e).area a = { s.area a with used := (s.area a).used - if a = (s.win w).area then 1 else 0 } := by
  have harea : (s.freeAcked w g e).area a = (s.lowerUsed (s.win w).area 1).area a := rfl
  rw [harea, State.lowerUsed, State.area_setArea]
  split
  · next h => rw [h]
  · rfl

/-- An acknowledged entry leaves its slot (R55). -/
theorem State.entriesLaw.acks (h : s.entriesLaw k) {e : Entry} (hg : s.oldest w = some g) (he : e ∈ s.slots)
    (hof : e.ofGroup w g.number = true) : (s.freeAcked w g e).entriesLaw k := by
  obtain ⟨hew, hen⟩ := Entry.ofGroup_iff.1 hof
  have hslots : (s.freeAcked w g e).slots = s.slots.filter fun y => y.slot != e.slot := rfl
  have hwin := s.win_freeAcked w g e
  have hself : ∀ y ∈ s.slots, y.slot = e.slot → y = e := fun y hy hs => List.inj_on_of_nodup_map h.slots hy he hs
  have hone : s.slots.countP (fun y => y.slot == e.slot) = 1 := by
    have hcountP : s.slots.countP (fun y => y.slot == e.slot) = (s.slots.map Entry.slot).count e.slot := by
      rw [List.count, List.countP_map]
      rfl
    rw [hcountP, List.count_eq_one_of_mem h.slots (List.mem_map_of_mem he)]
  have hcount : ∀ p : Entry → Bool, (s.freeAcked w g e).slots.countP p = s.slots.countP p - if p e = true then 1 else 0 := fun p => by
    rw [hslots]
    by_cases hp : p e = true
    · rw [if_pos hp, ← hone]
      refine countP_filter_sub fun y hy hs => ?_
      rw [hself y hy (by simpa using hs)]
      exact hp
    · rw [if_neg hp, Nat.sub_zero]
      refine countP_filter_of_imp fun y hy hpy => ?_
      by_contra hs
      rw [hself y hy (by simpa using hs)] at hpy
      exact hp hpy
  have hcounted := (h.agree w).2 g (State.mem_of_oldest hg)
  refine h.recount (n := g.number) (.freeAcked s g e) ?_ (fun y hy => ?_) (fun v m hne => ?_) (fun a i => ?_) (fun a => ?_) ?_ ?_
    (List.mem_map_of_mem (State.mem_of_oldest hg)) fun b hb => ?_
  · rw [hslots]
    exact h.slots.sublist (List.filter_sublist.map _)
  · rw [hslots] at hy
    exact .inl (List.mem_filter.1 hy).1
  · rw [hcount, if_neg fun hh => hne ?_, Nat.sub_zero]
    obtain ⟨hw, hm⟩ := Entry.ofGroup_iff.1 hh
    exact ⟨hw.symm.trans hew, hm.symm.trans hen⟩
  · rw [State.area_freeAcked]
    rfl
  · rw [hcount, State.area_freeAcked]
    dsimp only
    rw [h.placed.2 a]
    congr 1
    by_cases ha : a = (s.win w).area
    · rw [if_pos ha, if_pos (by rw [ha, hew]; exact beq_self_eq_true _)]
    · rw [if_neg ha, if_neg fun hh => ha (by rw [hew, beq_iff_eq] at hh; exact hh.symm)]
  · rw [hwin]
  · rw [hwin]
    conv_rhs => rw [State.groups_of_oldest hg]
    rfl
  · rw [hwin] at hb
    rcases List.mem_cons.1 hb with rfl | hb
    · refine .inl ⟨rfl, ?_, fun hs => ?_⟩
      · rw [hcount, if_pos hof, ← hcounted.1]
      · dsimp only
        rw [hcounted.2 hs]
    · exact .inr ⟨h.number_ne_oldest hg b hb, List.mem_of_mem_tail hb⟩

/-! ### Discard, break, abandonment, freeze, quiesce -/

theorem State.entriesLaw.discards (h : s.entriesLaw k) (c : Cause) (hg : g ∈ (s.win w).groups) :
    (s.discardGroup w g c).entriesLaw k := by
  have hwin := s.win_discardGroup w g c
  have hgroups : ((s.discardGroup w g c).win w).groups = (s.win w).groups.erase g := by
    rw [hwin, Window.discarded, List.diff_cons, List.diff_nil]
  have hmem : ∀ b, b ∈ (s.win w).groups.erase g ↔ b ≠ g ∧ b ∈ (s.win w).groups := fun b => (h.nodup w).mem_erase_iff
  refine Freed.entriesLaw h (Freed.discardGroup s w g c) (by rw [hwin]; rfl) ?_ (fun b hb => ?_) fun a ha hn => ?_
  · rw [hgroups]
    exact List.erase_sublist.map _
  · rw [hgroups, hmem] at hb
    exact .inr ⟨(h.lately w).number_ne hb.2 hg hb.1, hb.2⟩
  · rw [hgroups, hmem]
    exact ⟨fun heq => hn (by rw [heq]), ha⟩

theorem State.entriesLaw.discardsAll {l : List Group} (h : s.entriesLaw k) (c : Cause) (hl : l.Sublist (s.win w).groups) :
    (l.foldl (fun s g => s.discardGroup w g c) s).entriesLaw k := by
  induction l generalizing s with
  | nil => exact h
  | cons g l ih =>
    refine ih (h.discards c (hl.subset (by simp))) ?_
    have hnot : g ∉ l := (List.nodup_cons.1 ((h.nodup w).sublist hl)).1
    rw [State.win_discardGroup, Window.discarded, List.diff_cons, List.diff_nil]
    simpa [hnot] using hl.erase g

theorem State.entriesLaw.breaks (h : s.entriesLaw k) (c : Cause) (l : Option Line) : (s.breakOpen w c l).entriesLaw k := by
  by_cases hopen : ∃ g ∈ s.youngest w, g.state = .opened
  · obtain ⟨g, hg, ho⟩ := hopen
    have hwin := State.win_breakOpen s w hg ho c l
    refine Freed.entriesLaw h (Freed.breakOpen hg ho c l) (by rw [hwin]) ?_ (fun b hb => ?_) fun a ha hn => ?_
    · rw [hwin]
      conv_rhs => rw [State.groups_of_youngest hg]
      simp [Group.brokenDown]
    · rw [hwin] at hb
      rcases List.mem_append.1 hb with hb | hb
      · exact .inr ⟨h.number_ne_youngest hg b hb, List.mem_of_mem_dropLast hb⟩
      · rw [List.mem_singleton.1 hb]
        exact .inl ⟨rfl, rfl⟩
    · rw [hwin]
      rw [State.groups_of_youngest hg] at ha
      rcases List.mem_append.1 ha with ha | ha
      · exact List.mem_append_left _ ha
      · rw [List.mem_singleton.1 ha] at hn
        exact absurd rfl hn
  · rw [State.breakOpen_none fun g hg ho => hopen ⟨g, hg, ho⟩]
    exact h

theorem State.entriesLaw.abandoned (h : s.entriesLaw k) (hg : s.oldest w = some g) : (s.abandoned w g).entriesLaw k := by
  have hwin := s.win_abandoned w g
  refine Freed.entriesLaw h (Freed.abandoned s w g) (by rw [hwin]) ?_ (fun b hb => ?_) fun a ha hn => ?_
  · rw [hwin]
    exact (List.tail_sublist _).map _
  · rw [hwin] at hb
    exact .inr ⟨h.number_ne_oldest hg b hb, List.mem_of_mem_tail hb⟩
  · rw [hwin]
    rw [State.groups_of_oldest hg] at ha
    rcases List.mem_cons.1 ha with rfl | ha
    · exact absurd rfl hn
    · exact ha

theorem Window.freeze_nextGroup (x : Window) : x.freeze.nextGroup = x.nextGroup := by
  unfold Window.freeze
  split <;> rfl

theorem Window.unfreeze_nextGroup (x : Window) : x.unfreeze.nextGroup = x.nextGroup := by
  unfold Window.unfreeze
  split <;> rfl

theorem State.entriesLaw.frozenBehind (h : s.entriesLaw k) (hg : s.oldest w = some g) (line : Line) :
    (s.frozenBehind w g line).entriesLaw k := by
  have hset : (s.setOldest w (g.failed line)).entriesLaw k :=
    h.setHead (y := g.failed line) hg rfl rfl fun hs => by simp [Group.failed] at hs
  have hfreeze := hset.restate (w := w) (f := Window.freeze) (Window.freeze_groups _) (Window.freeze_area _) (Window.freeze_nextGroup _)
  exact (hfreeze.same ((SameQueues.post _ w _).trans (.refuseHeld _ w))).breaks _ _

theorem State.entriesLaw.unfreeze (h : s.entriesLaw k) (w : WIdx) : (s.modWin w Window.unfreeze).entriesLaw k :=
  h.restate (Window.unfreeze_groups _) (Window.unfreeze_area _) (Window.unfreeze_nextGroup _)

theorem State.entriesLaw.quiesced (h : s.entriesLaw k) (m : QuiesceMode) : (s.quiesced w m).entriesLaw k :=
  (h.restate (w := w) (f := fun x => { x with state := .quiescing, quiesceMode := some m }) rfl rfl rfl).same (.refuseHeld _ w)

theorem State.entriesLaw.sealOpen (h : s.entriesLaw k) (c : SealCause) (m : Option MarkerData) (pm : Option (Source × Tag)) :
    (s.sealOpen w c m pm).entriesLaw k := by
  unfold State.sealOpen
  split
  · next g hg =>
    split
    · exact (h.setLast (y := g.sealedBy c m pm) hg rfl rfl ⟨by simp [Group.sealedBy], by simp [Group.sealedBy]⟩).same
        (.windowTrigger _ w)
    · exact h
  · exact h

theorem State.entriesLaw.releases (h : s.entriesLaw k) (w : WIdx) (e : Option (BitVec 16)) : (s.releaseSealed w e).entriesLaw k := by
  refine h.mapQueue fun g => ?_
  unfold Group.releasedAt
  split
  · exact ⟨rfl, rfl, fun hs => by simp at hs⟩
  · exact ⟨rfl, rfl, fun _ => rfl⟩

theorem State.entriesLaw.discardYoungestIf (h : s.entriesLaw k) (st : GState) (c : Cause) :
    (s.discardYoungestIf w st c).entriesLaw k := by
  unfold State.discardYoungestIf
  split
  · next g hg =>
    split
    · exact h.discards c (State.mem_of_youngest hg)
    · exact h
  · exact h

end

/-! ### The law of the queues, and of a step -/

/-- The table law and the entry law together are a law of the queues. -/
theorem entryQueues (full : Bool) : QueueLaw fun k s => s.tableLawIf full ∧ s.entriesLaw k where
  table h := h.1.1
  mono h := ⟨h.1, h.2.mono⟩
  same h hs := ⟨(tableQueues full).same (k := 0) h.1 hs, h.2.same hs⟩
  mapSlots hf h := ⟨(tableQueues full).mapSlots (k := 0) hf h.1, h.2.mapSlots hf⟩
  holds hslot hon h := ⟨(tableQueues full).holds (k := 0) hslot hon h.1, ⟨h.2.slots, h.2.placed, h.2.agree, h.2.lately⟩⟩
  opens src hk hon hno hroom h := ⟨(tableQueues full).opens src hk hon hno hroom h.1, h.2.opens src hk⟩
  seals c m pm hg ho h := ⟨(tableQueues full).seals (k := 0) c m pm hg ho h.1,
    h.2.setLast hg rfl rfl ⟨by simp [Group.sealedBy], by simp [Group.sealedBy]⟩⟩
  breaks c l hg ho h := ⟨(tableQueues full).breaks (k := 0) c l hg ho h.1, h.2.breaks c l⟩
  discards c hg hu h := ⟨(tableQueues full).discards (k := 0) c hg hu h.1, h.2.discards c hg⟩
  releases w e h := ⟨(tableQueues full).releases (k := 0) w e h.1, h.2.releases w e⟩
  drains {_ s w g y} hg hy h := by
    refine ⟨(tableQueues full).drains (k := 0) hg hy h.1, ?_⟩
    obtain ⟨hn, hc, hstate⟩ := hy
    refine h.2.setHead hg hn hc fun hs => ?_
    rcases hstate with heq | ⟨-, -, heq⟩ | ⟨-, -, hnone⟩
    · rw [heq] at hs
      exact ((h.2.agree w).2 g (State.mem_of_oldest hg)).2 hs
    · simp [heq] at hs
    · exact hnone
  publishes {_ s w g} hg hd h := by
    refine ⟨(tableQueues full).publishes (k := 0) hg hd h.1, ?_⟩
    have hnone : g.entryCount = 0 :=
      hd.elim And.right fun hm => ((h.2.agree w).2 g (State.mem_of_oldest hg)).2 (.inr hm)
    have hbefore := (SameQueues.post s w (evGroupPublished w g)).trans ((SameQueues.bumpPublished _ w).trans (.answerPending _ g .done))
    exact ((h.2.same hbefore).dropHead ((hbefore.oldest w).trans hg) hnone).same (.windowTrigger _ w)
  allocates hg ho hj h := ⟨(tableQueues full).allocates (k := 0) hg ho hj h.1, h.2.allocates hg ho hj⟩
  acks hg he hof h := ⟨(tableQueues full).acks (k := 0) hg he hof h.1, h.2.acks hg he hof⟩
  ends hq hnone h := ⟨(tableQueues full).ends (k := 0) hq hnone h.1, h.2.restate rfl rfl rfl⟩
  freezes l hsoft hg hd h := ⟨(tableQueues full).freezes (k := 0) l hsoft hg hd h.1, h.2.frozenBehind hg l⟩
  softFails l hsoft hg hd h := ⟨(tableQueues full).softFails (k := 0) l hsoft hg hd h.1,
    ((h.2.frozenBehind hg l).unfreeze _).abandoned ((State.oldest_unfreeze _ _ _).trans (State.oldest_frozenBehind hg l))⟩
  retries {_ s w g} hfrozen hg h := by
    refine ⟨(tableQueues full).retries (k := 0) hfrozen hg h.1, ?_⟩
    refine (h.2.unfreeze w).setHead (g := g) ((State.oldest_unfreeze s w w).trans hg) rfl rfl fun hs => ?_
    by_contra hne
    simp [hne] at hs
  abandons {_ s w _} hfrozen hg h := ⟨(tableQueues full).abandons (k := 0) hfrozen hg h.1,
    (h.2.unfreeze _).abandoned ((State.oldest_unfreeze s w w).trans hg)⟩
  quiescesDrop hon h := ⟨(tableQueues full).quiescesDrop (k := 0) hon h.1, (h.2.quiesced _).discardsAll _ List.filter_sublist⟩
  quiescesFinish hon h := ⟨(tableQueues full).quiescesFinish (k := 0) hon h.1,
    (((h.2.quiesced _).sealOpen _ _ _).discardYoungestIf _ _).releases _ _⟩
  turnsToDrop hq h := ⟨(tableQueues full).turnsToDrop (k := 0) hq h.1, h.2.restate rfl rfl rfl⟩
  unmarks w h := ⟨(tableQueues full).unmarks (k := 0) w h.1, h.2.mapQueue fun _ => ⟨rfl, rfl, fun _ => rfl⟩⟩

section
variable {k : Nat} {s : State} {w : WIdx}

/-- Records at their zero values. -/
theorem State.entriesLaw_zero (hw : ∀ v, s.win v = Window.zero) (ha : ∀ a, s.area a = Area.zero) (hs : s.slots = []) :
    s.entriesLaw k := by
  refine ⟨by simp [hs], ⟨fun e he => by simp [hs] at he, fun a => by simp [ha, hs, Area.zero]⟩,
    fun w => ⟨fun e he => by simp [hs] at he, fun g hg => by simp [hw, Window.zero] at hg⟩, fun w => ⟨by simp [hw, Window.zero],
      fun g hg => by simp [hw, Window.zero] at hg⟩⟩

/-- A window without groups takes another configuration: no entry is its own. -/
theorem State.entriesLaw.reconfigures (h : s.entriesLaw k) {f : Window → Window} (hnone : (s.win w).groups = [])
    (hg : (f (s.win w)).groups = []) : (s.modWin w f).entriesLaw k := by
  have hwin : ∀ e ∈ s.slots, e.window ≠ w := fun e he hw => by
    obtain ⟨g, hg, -⟩ := (h.agree w).1 e he hw
    rw [hnone] at hg
    cases hg
  refine ⟨h.slots, ⟨fun e he => ?_, fun a => ?_⟩, fun v => ?_, fun v => ?_⟩
  · rw [State.win_modWin_other _ _ (hwin e he)]
    exact h.placed.1 e he
  · refine (h.placed.2 a).trans (List.countP_congr fun e he => ?_)
    rw [State.win_modWin_other _ _ (hwin e he)]
  · by_cases hv : v = w
    · rw [hv, State.win_modWin_same, hg]
      exact ⟨fun e he hw => absurd hw (hwin e he), fun g hg => by cases hg⟩
    · rw [State.win_modWin_other _ _ hv]
      exact h.agree v
  · by_cases hv : v = w
    · rw [hv, State.win_modWin_same, Window.openedLately, hg]
      exact ⟨List.nodup_nil, fun g hg => by cases hg⟩
    · rw [State.win_modWin_other _ _ hv]
      exact h.lately v

theorem State.entriesLaw.configures (h : s.entriesLaw k) (ht : s.groupLaw) (w : WIdx) (op : WindowOperands) :
    (s.writeWindow w op).state.entriesLaw k := by
  unfold State.writeWindow
  split
  · unfold State.writeEnables
    split
    · split
      · exact h
      · next en _ => exact h.restate (f := fun x => { x with enables := en }) rfl rfl rfl
    · exact h
  · next hidle =>
    obtain ⟨hnone, -⟩ := (Window.law_idle (by simpa using hidle)).1 (ht.1 w)
    by_cases hz : op.size = 0
    · rw [State.configureWindow_zero hz]
      exact h.reconfigures (f := Window.cleared) hnone hnone
    · cases hf : opFields? op with
      | none => rw [State.configureWindow, if_neg hz, hf]; exact h
      | some f =>
        rw [State.configureWindow_fields hz hf]
        split
        · exact h
        · exact h.reconfigures (f := fun x => x.configured f) hnone hnone

/-- The extent of an area changes only where no entry lies in it (R44). -/
theorem State.entriesLaw.extents (h : s.entriesLaw k) (ht : s.groupLaw) (a : AIdx) (first count : Nat) :
    (s.writeArea a first count).state.entriesLaw k := by
  unfold State.writeArea
  split
  · split
    · exact h
    · next hidle =>
      split
      · exact h
      · have hout : ∀ e ∈ s.slots, (s.win e.window).area ≠ a := fun e he ha => by
          obtain ⟨g, hg, -⟩ := (h.agree e.window).1 e he rfl
          have hlive : (s.win e.window).state.live = true := by
            by_contra hnot
            rw [((Window.law_idle (by simpa using hnot)).1 (ht.1 e.window)).1] at hg
            cases hg
          refine hidle (List.any_eq_true.2 ⟨e.window, List.mem_finRange _, ?_⟩)
          rw [hlive, Bool.and_true, Window.joined]
          cases hs : (s.win e.window).state <;> simp_all [WState.live]
        refine ⟨h.slots, ⟨fun e he => ?_, fun b => ?_⟩, h.agree, h.lately⟩
        · rw [answer_state, State.win_setArea, State.area_setArea, if_neg (hout e he)]
          exact h.placed.1 e he
        · rw [answer_state, State.area_setArea]
          split
          · next hb =>
            subst hb
            exact h.placed.2 b
          · exact h.placed.2 b
  · exact h

end

/-- The two laws are kept by the commands of the port and by the resets. -/
theorem entrySteps : StepLaw fun k s => s.tableLawIf true ∧ s.entriesLaw k where
  toQueueLaw := entryQueues true
  ended {k s} h := by
    refine ⟨h.1.ended, ?_⟩
    unfold State.softResetCheck
    split
    · exact State.entriesLaw_zero (fun v => by simp [State.endSoftReset, State.win]) (fun a => by simp [State.endSoftReset, State.area])
        (by simp [State.endSoftReset])
    · exact h.2
  poweredOn s := ⟨State.tableLawIf_true.2 tableLaw_reset,
    State.entriesLaw_zero (fun v => State.win_reset v) (fun a => by simp [State.powerOn, State.reset, State.area]) rfl⟩
  configures w op h := ⟨h.1.configures w op, h.2.configures h.1.1 w op⟩
  extents a first count h := ⟨tableSteps.extents (k := 0) a first count h.1, h.2.extents h.1.1 a first count⟩
  onlines hsoft hoff h := ⟨tableSteps.onlines (k := 0) hsoft hoff h.1, h.2.restate rfl rfl rfl⟩
  begins {k s} o q h := by
    refine ⟨h.1.begins o q, ?_⟩
    have hbegun : State.tableLawIf false { s with softReset := true } ∧ State.entriesLaw k { s with softReset := true } :=
      ⟨⟨h.1.1, fun hf => by cases hf⟩, ⟨h.2.slots, h.2.placed, h.2.agree, h.2.lately⟩⟩
    have hsteps := ((entryQueues false).softSteps (k := k) o q hbegun).2
    rw [State.beginSoftReset]
    unfold State.softResetCheck
    split
    · exact State.entriesLaw_zero (fun v => by simp [State.endSoftReset, State.win]) (fun a => by simp [State.endSoftReset, State.area])
        (by simp [State.endSoftReset])
    · exact hsteps

/-- Settles O9: with the table law, whose windows without live state hold no group, and the numbers of R25, of which a step opens 8 at the
most, each change of a queue keeps entries and counts in agreement. -/
theorem stepKeepsEntryLaw : Obligations.StepKeepsEntryLaw := fun _ _ hentry htable hslot hfresh hstep =>
  State.entryLaw_of_entriesLaw (entrySteps.step (by decide) hstep
    ⟨State.tableLawIf_true.2 htable, State.entriesLaw_of_entryLaw hentry hslot.2.2.1 hfresh⟩).2

end Sys2Proof.Machine
end

section
/-! O57, O53, O52. CLEAR_FAULT (R37, R119, R121) and SET_OFFLINE (R29 to R33). -/

namespace Sys2Proof.Machine

/-! ### What an abandonment leaves alone -/

/-- Nothing has changed but the credits and what a write group can touch. -/
def CreditFrame (s t : State) : Prop := ({ s with credits := t.credits } : State).sameOutsideGroups t

theorem CreditFrame.trans {s t u : State} (h : CreditFrame s t) (k : CreditFrame t u) : CreditFrame s u := by
  refine Eq.trans k ?_
  rw [h]

theorem sameOutsideGroups_credits {s t : State} (h : s.sameOutsideGroups t) : t.credits = s.credits :=
  Eq.trans (congrArg State.credits h) rfl

theorem CreditFrame.of_same {s t : State} (h : s.sameOutsideGroups t) : CreditFrame s t := by
  rw [CreditFrame, sameOutsideGroups_credits h]
  exact h

theorem CreditFrame.mapCredits (s : State) (f : Credit → Credit) : CreditFrame s (s.mapCredits f) := by
  unfold CreditFrame State.mapCredits
  rfl

theorem CreditFrame.setCredit (s : State) (c : CreditNo) (x : Credit) : CreditFrame s (s.setCredit c x) := rfl

/-! ### Answers of LATE markers (R74) -/

section
variable {s t : State} {g : Group}

theorem State.groupRcd?_congr (h : t.transit = s.transit) (src : Source) (tag : Tag) : t.groupRcd? src tag = s.groupRcd? src tag := by
  simp only [State.groupRcd?, State.rcd, h]

theorem State.answerPending_none (h : g.pendingMarker = none) (r : Result) : s.answerPending g r = s := by
  rw [State.answerPending, h]

theorem State.answerPending_some {src : Source} {tag : Tag} {u : RecNo} (h : g.pendingMarker = some (src, tag))
    (hu : s.groupRcd? src tag = some u) (r : Result) : s.answerPending g r = s.answerRcd u r none := by
  rw [State.answerPending, h]
  dsimp only
  rw [State.answerWrite, hu]

/-- An answer reads and writes the transit records alone. -/
theorem State.answerPending_transit (h : t.transit = s.transit) (g : Group) (r : Result) :
    (t.answerPending g r).transit = (s.answerPending g r).transit := by
  unfold State.answerPending
  split
  · next src tag _ =>
    unfold State.answerWrite
    rw [State.groupRcd?_congr h]
    split
    · simp only [State.answerRcd, State.modRcd, State.setRcd, State.rcd, h]
    · exact h
  · exact h

theorem State.eventUnit_mapCredits (s : State) (f : Credit → Credit) : (s.mapCredits f).eventUnit = s.eventUnit := by
  simp [State.eventUnit]

theorem State.eventUnit_answerPending (s : State) (g : Group) (r : Result) : (s.answerPending g r).eventUnit = s.eventUnit := by
  simp [State.eventUnit]

end

/-! ### Abandonment (R121) -/

section
variable (s : State) (w : WIdx) (g : Group)

theorem State.transit_abandoned : (s.abandoned w g).transit = (s.answerPending g .failed).transit := by
  simp only [State.abandoned, State.windowTrigger_transit, State.modWin_transit, State.bumpDiscarded, State.post_transit]
  exact State.answerPending_transit ((State.mapCredits_transit ..).trans (s.freeGroupSlots_transit w g.number)) g .failed

theorem State.credit_abandoned (c : CreditNo) : (s.abandoned w g).credit c = (s.credit c).orphaned w g.number := by
  have hfreed : (s.freeGroupSlots w g.number).credits = s.credits :=
    sameOutsideGroups_credits (same_closed.freeGroupSlots s w g.number)
  have hcredits : (s.abandoned w g).credits = ((s.freeGroupSlots w g.number).mapCredits fun c => c.orphaned w g.number).credits := by
    simp only [State.abandoned, State.windowTrigger_credits, State.modWin_credits, State.bumpDiscarded, State.post_credits,
      State.answerPending_credits]
  rw [State.credit, hcredits, ← State.credit, State.credit_mapCredits, State.credit, hfreed]
  rfl

theorem State.eventUnit_abandoned :
    (s.abandoned w g).eventUnit = (s.post w (evGroupDiscarded w g .abandon)).eventUnit := by
  let a : State := ((s.freeGroupSlots w g.number).mapCredits fun c => c.orphaned w g.number).answerPending g .failed
  have hposted : (s.abandoned w g).eventUnit = (a.post w (evGroupDiscarded w g .abandon)).eventUnit := by
    unfold State.abandoned State.windowTrigger State.bumpDiscarded
    rfl
  rw [hposted]
  refine post_eventUnit (s := a) (t := s) ?_ ?_ _
  · simp only [a]
    rw [State.win_answerPending, State.win_mapCredits, State.win_freeGroupSlots]
  · simp only [a]
    rw [State.eventUnit_answerPending, State.eventUnit_mapCredits]
    exact s.freeGroupSlots_eventUnit w g.number

theorem CreditFrame.abandoned : CreditFrame s (s.abandoned w g) := by
  refine ((CreditFrame.of_same (same_closed.freeGroupSlots s w g.number)).trans
    (.mapCredits _ fun c => c.orphaned w g.number)).trans ?_
  exact .of_same (same_closed.trans (same_closed.answerPending _ g .failed) (same_closed.trans (same_closed.post _ w _)
    (same_closed.trans (same_closed.bumpDiscarded _ w) (same_closed.trans (same_closed.modWin _ w _) (same_closed.windowTrigger _ w)))))

end

/-! ### CLEAR_FAULT (R37, R119, R121) -/

section
variable {s : State} {w : WIdx} {g : Group}

/-- The drain engine finds nothing in an empty queue, and a window not QUIESCING stays (R33, R103). -/
theorem State.drainTake_empty (h : (s.win w).groups = []) (hq : (s.win w).state ≠ .quiescing) : s.drainTake w = s := by
  rw [State.drainTake, h]
  exact if_neg fun hh => hq hh.1

theorem State.clearFault_frozen (hf : (s.win w).state = .frozen) (act : State → State) :
    s.clearFault w true act = answer .ok (act (s.modWin w Window.unfreeze)) := by
  rw [State.clearFault, if_pos rfl, if_pos hf]

/-- RETRY, by frozen-from: the group is drained again, so the drain engine takes nothing more. -/
theorem State.retry_eq (hg : s.oldest w = some g) (hf : g.state = .faulted) :
    ((s.modWin w Window.unfreeze).retryFaulted w).drainTake w = (s.modWin w Window.unfreeze).setOldest w
      { g with state := if g.entryCount = 0 then .marking else .draining, failedLine := none } := by
  have hretry : (s.modWin w Window.unfreeze).retryFaulted w = (s.modWin w Window.unfreeze).setOldest w
      { g with state := if g.entryCount = 0 then .marking else .draining, failedLine := none } := by
    rw [State.retryFaulted, State.oldest_unfreeze, hg]
    exact if_pos hf
  rw [hretry]
  refine State.drainTake_drained (State.oldest_setOldest _) ?_
  dsimp only
  split
  · exact .inr (.inl rfl)
  · exact .inl rfl

end

/-- Settles O57: RETRY by frozen-from; ABANDON by what an abandonment does, with nothing left for the drain engine. -/
theorem clearFault : Obligations.ClearFault := by
  refine ⟨fun s w g from_ hport hsoft hfrozen hfrom hg hfaulted => ?_, fun s w g hport hsoft hfrozen hfrom hgroups hfaulted => ?_⟩
  · rw [exec_clearFaultRetry hport hsoft w 0 (State.clearFault_frozen hfrozen _), answer_state, answer_reply, State.retry_eq hg hfaulted,
      State.setOldest, State.modWin, State.modWin, State.win_setWin_same, State.setWin_setWin]
    cases from_ <;> simp only [Window.unfreeze, hfrozen, hfrom] <;> rfl
  · have hg : s.oldest w = some g := by rw [State.oldest, hgroups]; rfl
    have hexec := exec_clearFaultAbandon hport hsoft w 1 (State.clearFault_frozen hfrozen _)
    rw [answer_state, answer_reply, State.abandonFaulted_eq ((s.oldest_unfreeze w w).trans hg) hfaulted] at hexec
    let a : State := s.modWin w Window.unfreeze
    have hwin : (a.abandoned w g).win w =
        { s.win w with
          state := .online, frozenFrom := none, groups := []
          stats := { (s.win w).stats with discarded := (s.win w).stats.discarded + 1 } } := by
      rw [State.win_abandoned, State.win_modWin_same]
      simp only [Window.unfreeze, hfrozen, hfrom, hgroups]
      rfl
    have hidle : (a.abandoned w g).drainTake w = a.abandoned w g :=
      State.drainTake_empty (by rw [hwin]) (by rw [hwin]; simp)
    rw [hidle] at hexec
    have hfreed := Freed.abandoned a w g
    have harea : (a.win w).area = (s.win w).area := by rw [State.win_modWin_same]; exact Window.unfreeze_area _
    refine ⟨a.abandoned w g, hexec, hwin, (OnlyAt.modWin s _).trans (.abandoned a g), hfreed.slots, ?_, fun c => ?_, fun hp => ?_,
      fun src tag u hp hu => ?_, ?_, ?_⟩
    · rw [hfreed.used, harea, if_pos rfl]
      rfl
    · rw [State.credit_abandoned]
      change (s.credit c).orphaned w g.number = _
      cases s.credit c with
      | free => rfl
      | forwarder cl => rfl
      | drain cl => cases cl <;> rfl
    · rw [State.transit_abandoned, State.answerPending_none hp]
      rfl
    · rw [State.transit_abandoned, State.answerPending_some (s := a) hp hu]
      rfl
    · rw [State.eventUnit_abandoned]
      refine post_eventUnit (s := a) (t := s) ?_ rfl (evGroupDiscarded w g .abandon)
      rw [State.win_modWin_same]
      unfold Window.unfreeze
      split <;> rfl
    · exact (CreditFrame.of_same (s := s) (t := a) rfl).trans (.abandoned a w g)

end Sys2Proof.Machine
end

section
/-! O53, O52. SET_OFFLINE with DROP and with FINISH (R29 to R33). -/

namespace Sys2Proof.Machine

/-! ### Held writes refused (R153) -/

/-- A count advances by one, and by `n` more. -/
theorem count_succ (x : BitVec 32) (n : Nat) : x + 1 + BitVec.ofNat 32 n = x + BitVec.ofNat 32 (n + 1) := by
  rw [BitVec.ofNat_add, BitVec.add_assoc, BitVec.add_comm 1]
  rfl

section
variable {s : State} {w : WIdx}

theorem State.win_refusals {l : List Held} (hl : ∀ h ∈ l, h.window = w) (c : Cause) (s : State) :
    (l.foldl (fun s h => s.refuseWrite h.toWrite c) s).win w = { s.win w with stats := { (s.win w).stats with
      refused := (s.win w).stats.refused + BitVec.ofNat 32 l.length } } := by
  induction l generalizing s with
  | nil => simp
  | cons h l ih =>
    have hw : h.window = w := hl h (by simp)
    have hone : (s.refuseWrite h.toWrite c).win w = { s.win w with stats := { (s.win w).stats with
        refused := (s.win w).stats.refused + 1 } } := by
      simp [State.refuseWrite, State.bumpRefused, Held.toWrite, hw]
    rw [List.foldl_cons, ih (fun y hy => hl y (by simp [hy])), hone, List.length_cons]
    dsimp only
    rw [count_succ]

/-- The held writes of the window are counted as refused (R153). -/
theorem State.win_refuseHeld (s : State) (w : WIdx) :
    (s.refuseHeld w).win w = { s.win w with stats := { (s.win w).stats with
      refused := (s.win w).stats.refused + BitVec.ofNat 32 (s.holds.countP fun h => h.window == w) } } := by
  rw [State.refuseHeld, State.win_refusals fun h hh => by simpa using (List.mem_filter.1 hh).2, List.countP_eq_length_filter]

theorem State.refuseHeld_none (h : ∀ y ∈ s.holds, y.window ≠ w) : s.refuseHeld w = s := by
  rw [State.refuseHeld, List.filter_eq_nil_iff.2 fun y hy => by simpa using h y hy]
  rfl

theorem State.windowTrigger_none (h : ∀ y ∈ s.holds, y.window ≠ w) : s.windowTrigger w = s := by
  have hmap : s.holds.map (fun y => if y.window = w then { y with pending := true } else y) = s.holds :=
    (List.map_congr_left fun y hy => if_neg (h y hy)).trans (List.map_id _)
  rw [State.windowTrigger, hmap]

/-! ### The end of a quiesce (R33) -/

theorem State.win_offlineIfEmpty (s : State) (w : WIdx) : (s.offlineIfEmpty w).win w =
    if (s.win w).state = .quiescing ∧ (s.win w).groups = [] then { s.win w with state := .offline, quiesceMode := none }
    else s.win w := by
  unfold State.offlineIfEmpty
  split
  · rw [State.win_post, State.win_modWin_same]
  · rfl

theorem State.slots_offlineIfEmpty (s : State) (w : WIdx) : (s.offlineIfEmpty w).slots = s.slots := by
  unfold State.offlineIfEmpty
  split <;> simp

theorem State.holds_offlineIfEmpty (s : State) (w : WIdx) : (s.offlineIfEmpty w).holds = s.holds := by
  unfold State.offlineIfEmpty
  split <;> simp

/-! ### SET_OFFLINE with DROP (R32) -/

theorem State.setOffline_online (hon : (s.win w).state = .online) (q : State → State) :
    s.setOffline w true q = answer .accepted (q s) := by
  rw [State.setOffline, hon]
  rfl

theorem State.win_quiesced (s : State) (w : WIdx) (m : QuiesceMode) : (s.quiesced w m).win w =
    { s.win w with
      state := .quiescing, quiesceMode := some m
      stats := { (s.win w).stats with
        refused := (s.win w).stats.refused + BitVec.ofNat 32 (s.holds.countP fun h => h.window == w) } } := by
  rw [State.quiesced, State.win_refuseHeld, State.win_modWin_same]
  rfl

/-- The record of an ONLINE window that quiesces with DROP, before the end is tested (R30, R32). -/
theorem State.win_dropping (s : State) (w : WIdx) : ((s.quiesced w .drop).discardUnreleased w .quiesce).win w =
    ({ s.win w with
      state := .quiescing, quiesceMode := some .drop
      stats := { (s.win w).stats with
        refused := (s.win w).stats.refused + BitVec.ofNat 32 (s.holds.countP fun h => h.window == w) } } : Window).discarded
      ((s.win w).groups.filter fun g => g.state.unreleased) := by
  rw [State.discardUnreleased, State.discards_win, State.win_quiesced]

theorem State.slots_quiesced (s : State) (w : WIdx) (m : QuiesceMode) : (s.quiesced w m).slots = s.slots :=
  (SameQueues.refuseHeld _ w).slots

end

/-- Settles O53: the quiesce refuses what is held, discards what is unreleased, and tests its end. -/
theorem quiesceDrop : Obligations.QuiesceDrop := by
  intro s w hport hsoft hon gone left
  let a : State := (s.quiesced w .drop).discardUnreleased w .quiesce
  have hexec := exec_setOfflineDrop hport hsoft w 1 (State.setOffline_online hon _)
  rw [answer_state, answer_reply] at hexec
  have hwin := s.win_dropping w
  have hgroups : (a.win w).groups = left := by
    rw [hwin, Window.discarded, diff_filter]
    simp [left, GState.unreleased]
  have hend : ((s.quiesceDrop w).win w) = if left = [] then { a.win w with state := .offline, quiesceMode := none } else a.win w := by
    rw [show s.quiesceDrop w = a.offlineIfEmpty w from rfl, State.win_offlineIfEmpty, hgroups, hwin]
    simp [Window.discarded]
  have hkept : ((s.quiesceDrop w).win w).groups = left ∧ ((s.quiesceDrop w).win w).stats = (a.win w).stats := by
    rw [hend]
    split <;> exact ⟨hgroups, rfl⟩
  refine ⟨s.quiesceDrop w, hexec, hkept.1, fun hne => ?_, fun hnil => ?_, ?_, ?_, ?_, ?_, ?_, fun h hh => ?_, OnlyAt.quiesceDrop s,
    same_closed.quiesceDrop s w (by rw [hon]; decide)⟩
  · rw [hend, if_neg hne, hwin]
    exact ⟨rfl, rfl⟩
  · rw [hend, if_pos hnil]
    exact ⟨rfl, rfl⟩
  · rw [hkept.2, hwin]
    rfl
  · rw [hkept.2, hwin]
    rfl
  · rw [hkept.2, hwin]
    rfl
  · rw [hkept.2, hwin, BitVec.ofNat_add, ← BitVec.add_assoc]
    rfl
  · have hslots : a.slots = _ := State.discards_slots w .quiesce _ (s.quiesced w .drop)
    rw [show s.quiesceDrop w = a.offlineIfEmpty w from rfl, State.slots_offlineIfEmpty, hslots, State.slots_quiesced, State.win_quiesced]
    rfl
  · rw [show s.quiesceDrop w = a.offlineIfEmpty w from rfl, State.holds_offlineIfEmpty] at hh
    obtain ⟨z, hz, hkey⟩ : ∃ z ∈ (s.quiesced w .drop).holds, z.key = h.key := by
      simpa using (AtWindow.discards (w := w) _ _ .quiesce).holds.subset (List.mem_map_of_mem hh)
    rw [← show z.window = h.window from congrArg Prod.snd hkey]
    exact State.not_held_refuseHeld _ w z hz

/-! ### SET_OFFLINE with FINISH (R31) -/

section
variable {s : State} {w : WIdx} {g : Group}

/-- A window's quiesce is under way in mode `m`, or it has ended (R33). -/
def Window.quiescesOrEnded (m : QuiesceMode) (x : Window) : Prop :=
  (x.state = .quiescing ∧ x.quiesceMode = some m) ∨ (x.state = .offline ∧ x.quiesceMode = none ∧ x.groups = [])

theorem State.quiesces_offlineIfEmpty {m : QuiesceMode} (h : (s.win w).quiescesOrEnded m) :
    ((s.offlineIfEmpty w).win w).quiescesOrEnded m := by
  rw [State.win_offlineIfEmpty]
  split
  · next hend => exact .inr ⟨rfl, rfl, hend.2⟩
  · exact h

theorem State.quiesces_takeLoop {m : QuiesceMode} (n : Nat) (h : (s.win w).state = .quiescing ∧ (s.win w).quiesceMode = some m) :
    ((State.takeLoop n s w).win w).state = .quiescing ∧ ((State.takeLoop n s w).win w).quiesceMode = some m := by
  induction n generalizing s with
  | zero => exact h
  | succ n ih =>
    unfold State.takeLoop
    split
    · exact h
    · split
      · split
        · split
          · rwa [State.win_setOldest]
          · exact ih (by rwa [State.win_publishOldest, State.win_setOldest])
        · rwa [State.win_setOldest]
      · exact h

theorem State.quiesces_drainTake {m : QuiesceMode} (h : (s.win w).state = .quiescing ∧ (s.win w).quiesceMode = some m) :
    ((s.drainTake w).win w).quiescesOrEnded m :=
  State.quiesces_offlineIfEmpty (.inl (State.quiesces_takeLoop _ h))

theorem State.quiesces_releaseAll {m : QuiesceMode} (h : (s.win w).state = .quiescing ∧ (s.win w).quiesceMode = some m)
    (e : Option (BitVec 16)) : ((s.releaseAll w e).win w).quiescesOrEnded m := by
  unfold State.releaseAll
  split
  · exact State.quiesces_drainTake (by rwa [State.win_releaseSealed])
  · exact .inl h

theorem OnlyAt.quiesceFinish (s : State) : OnlyAt w s (s.quiesceFinish w) :=
  (OnlyAt.quiesced s .finish).trans ((OnlyAt.sealOpen _ _ _ _).trans ((OnlyAt.discardYoungestIf _ _ _).trans
    ((OnlyAt.releaseAll _ _).trans (.offlineIfEmpty _))))

/-- The window after a quiesce with FINISH: QUIESCING with groups, or OFFLINE without. -/
theorem State.win_quiesceFinish (h : Machine.shaped (s.win w).groups) :
    ((s.quiesceFinish w).win w).quiescesOrEnded .finish ∧
      (((s.quiesceFinish w).win w).groups = [] → ((s.quiesceFinish w).win w).state = .offline) := by
  let b : State := ((s.quiesced w .finish).sealOpen w .manual none none).discardYoungestIf w .broken .quiesce
  obtain ⟨h1, -, h3, -⟩ := State.win_finishing h
  have hb : (b.win w).state = .quiescing ∧ (b.win w).quiesceMode = some .finish := by
    rw [State.finishing, State.win_releaseSealed] at h1 h3
    exact ⟨h1, h3⟩
  have hreleased := State.quiesces_releaseAll hb none
  change (((b.releaseAll w none).offlineIfEmpty w).win w).quiescesOrEnded .finish ∧ _
  refine ⟨State.quiesces_offlineIfEmpty hreleased, fun hnil => ?_⟩
  change (((b.releaseAll w none).offlineIfEmpty w).win w).groups = [] at hnil
  change (((b.releaseAll w none).offlineIfEmpty w).win w).state = .offline
  rw [State.win_offlineIfEmpty] at hnil ⊢
  split
  · rfl
  · next hnot =>
    rw [if_neg hnot] at hnil
    exact hreleased.elim (fun hq => absurd ⟨hq.1, hnil⟩ hnot) fun hoff => hoff.1

/-- With one OPEN group that holds entries and no write held: it is sealed, released and taken (R31). -/
theorem State.quiesceFinish_single (hheld : ∀ h ∈ s.holds, h.window ≠ w) (hgroups : (s.win w).groups = [g]) (ho : g.state = .opened)
    (he : g.entryCount ≠ 0) (horphan : s.hasOrphan w = false) :
    s.quiesceFinish w = s.setWin w { s.win w with
      state := .quiescing, quiesceMode := some .finish
      groups := [{ (g.sealedBy .manual none none).taken with releaseEpoch := none }] } := by
  let x : Window := { s.win w with state := .quiescing, quiesceMode := some .finish }
  have hx : (s.setWin w x).win w = x := s.win_setWin_same w x
  have hquiesced : s.quiesced w .finish = s.setWin w x := State.refuseHeld_none (s := s.setWin w x) hheld
  have hyoung : (s.setWin w x).youngest w = some g := by
    rw [State.youngest, hx, hgroups]
    rfl
  have hseal : (s.setWin w x).sealOpen w .manual none none = (s.setWin w x).setGroups w [g.sealedBy .manual none none] := by
    rw [State.sealOpen, hyoung]
    dsimp only
    rw [if_pos ho, State.windowTrigger_none (by exact hheld), State.setYoungest, State.setGroups]
    refine congrArg (State.setWin _ w) ?_
    rw [hx]
    simp [x, hgroups]
  have hbroken : ((s.setWin w x).setGroups w [g.sealedBy .manual none none]).discardYoungestIf w .broken .quiesce =
      (s.setWin w x).setGroups w [g.sealedBy .manual none none] := by
    rw [State.discardYoungestIf, State.youngest, State.win_setGroups]
    exact if_neg (by simp [Group.sealedBy])
  rw [show s.quiesceFinish w = ((((s.quiesced w .finish).sealOpen w .manual none none).discardYoungestIf w .broken .quiesce).releaseAll w
      none).offlineIfEmpty w from rfl, hquiesced, hseal, hbroken,
    State.releaseAll_single (g := g.sealedBy .manual none none) (by rw [State.win_setGroups]) rfl he
      (by rw [State.win_setGroups, hx]; simp [x]) (by exact horphan) none,
    State.offlineIfEmpty, if_neg (by rw [State.win_setGroups]; simp), State.setGroups_setGroups, State.setGroups_setWin]

/-- With no group and no write held, the window is OFFLINE at once (R33). -/
theorem State.quiesceFinish_empty (hheld : ∀ h ∈ s.holds, h.window ≠ w) (hgroups : (s.win w).groups = []) :
    s.quiesceFinish w =
      (s.setWin w { s.win w with state := .offline, quiesceMode := none }).post w (evWindowOffline w) := by
  let x : Window := { s.win w with state := .quiescing, quiesceMode := some .finish }
  have hx : (s.setWin w x).win w = x := s.win_setWin_same w x
  have hquiesced : s.quiesced w .finish = s.setWin w x := State.refuseHeld_none (s := s.setWin w x) hheld
  have hyoung : (s.setWin w x).youngest w = none := by
    rw [State.youngest, hx, hgroups]
    rfl
  have hseal : (s.setWin w x).sealOpen w .manual none none = s.setWin w x := by rw [State.sealOpen, hyoung]
  have hbroken : (s.setWin w x).discardYoungestIf w .broken .quiesce = s.setWin w x := by rw [State.discardYoungestIf, hyoung]
  rw [show s.quiesceFinish w = ((((s.quiesced w .finish).sealOpen w .manual none none).discardYoungestIf w .broken .quiesce).releaseAll w
      none).offlineIfEmpty w from rfl, hquiesced, hseal, hbroken, State.releaseAll_empty (by rw [hx]; exact hgroups),
    State.offlineIfEmpty, if_pos (by rw [hx]; exact ⟨rfl, hgroups⟩), State.modWin, hx, State.setWin_setWin]

end

/-- Settles O52: with the table law by the window's record after it, which is lawful, and in two states step by step. -/
theorem quiesceFinish : Obligations.QuiesceFinish := by
  intro s w hport hsoft hon cmd
  have hexec := exec_setOfflineFinish hport hsoft w 0 (State.setOffline_online hon _)
  rw [answer_state, answer_reply] at hexec
  refine ⟨fun htable => ?_, fun hheld => ⟨fun g hgroups ho he horphan => ?_, fun hgroups => ?_⟩⟩
  · obtain ⟨⟨hlaw, -, honline⟩, -⟩ :=
      tableSteps.quiesceFinish (k := 0) hon (State.tableLawIf_true.2 htable)
    obtain ⟨hstate, hended⟩ := State.win_quiesceFinish (htable.1 w).1
    refine ⟨s.quiesceFinish w, hexec, fun h hh hw => ?_, fun g hg => ?_, fun hne => ?_, fun hnil => ?_, OnlyAt.quiesceFinish s,
      same_closed.quiesceFinish s w (by rw [hon]; decide)⟩
    · have hon' := honline h hh
      rw [hw] at hon'
      rcases hstate with ⟨hq, -⟩ | ⟨hoff, -⟩
      · rw [hon'] at hq
        cases hq
      · rw [hon'] at hoff
        cases hoff
    · rcases hstate with ⟨hq, -⟩ | ⟨-, -, hnil⟩
      · exact (((Window.law_quiescing hq).1 (hlaw w)).2.2.2 g hg).1
      · rw [hnil] at hg
        cases hg
    · exact hstate.resolve_right fun hoff => hne hoff.2.2
    · rcases hstate with ⟨hq, -⟩ | ⟨hoff, hmode, -⟩
      · rw [hended hnil] at hq
        cases hq
      · exact ⟨hoff, hmode⟩
  · rw [State.quiesceFinish_single hheld hgroups ho he horphan] at hexec
    exact hexec
  · rw [State.quiesceFinish_empty hheld hgroups] at hexec
    exact hexec

end Sys2Proof.Machine
end

section
/-! O31. Publication (R109 to R112), and what the drain engine takes after it (R33, R103). -/

namespace Sys2Proof.Machine

section
variable {s u : State} {w : WIdx} {g y : Group} {left : List Group}

/-! ### What the drain engine makes of a queue (R33, R103) -/

/-- The queue that the drain engine leaves of `l` in window `w`: the same, or its oldest group, RELEASED and with entries, taken. -/
def State.leaves (s : State) (w : WIdx) (l left : List Group) : Prop :=
  (l = [] ∧ left = []) ∨ (∃ y ys, l = y :: ys ∧ y.state ≠ .released ∧ left = y :: ys) ∨
    (∃ y ys, l = y :: ys ∧ y.state = .released ∧ y.entryCount ≠ 0 ∧ s.hasOrphan w = false ∧
      left = { y with state := .draining, issued := 0, acked := 0, outstanding := 0, failedLine := none } :: ys)

theorem State.leaves.nil_of_nil {l : List Group} (h : s.leaves w l left) (hnil : left = []) : l = [] := by
  rcases h with ⟨hl, -⟩ | ⟨y, ys, -, -, hleft⟩ | ⟨y, ys, -, -, -, -, hleft⟩
  · exact hl
  · rw [hnil] at hleft
    cases hleft
  · rw [hnil] at hleft
    cases hleft

/-- The same, or a queue that an orphaned write of the window keeps as it is (R103). -/
def State.leavesOrWaits (s : State) (w : WIdx) (l left : List Group) : Prop :=
  s.leaves w l left ∨ (l ≠ [] ∧ s.hasOrphan w = true ∧ left = l)

theorem State.leavesOrWaits.nil_of_nil {l : List Group} (h : s.leavesOrWaits w l left) (hnil : left = []) : l = [] := by
  rcases h with h | ⟨-, -, hleft⟩
  · exact h.nil_of_nil hnil
  · exact hleft.symm.trans hnil

/-- Nothing to take: an empty queue, or an oldest group that is not RELEASED or has to wait. -/
theorem State.drainTake_idle (h : ∀ y ∈ s.oldest w, s.canTake w y = false) : s.drainTake w = s.offlineIfEmpty w := by
  have hloop : ∀ n, State.takeLoop n s w = s := fun n => by
    cases n with
    | zero => rfl
    | succ n =>
      rw [State.takeLoop]
      cases hy : s.oldest w with
      | none => rfl
      | some y => exact if_neg (by simp [h y hy])
  rw [State.drainTake, hloop]

/-- The drain engine at a window that is ONLINE or QUIESCING, and the end of the quiesce. -/
theorem State.drainTake_leaves (hstate : (s.win w).state = .online ∨ (s.win w).state = .quiescing)
    (hleft : s.leavesOrWaits w (s.win w).groups left) :
    s.drainTake w = if (s.win w).state = .quiescing ∧ left = [] then
      (s.modWin w fun x => { x with state := .offline, quiesceMode := none }).post w (evWindowOffline w) else s.setGroups w left := by
  have hidle : (∀ y ∈ s.oldest w, s.canTake w y = false) → left = (s.win w).groups → left ≠ [] →
      s.drainTake w = if (s.win w).state = .quiescing ∧ left = [] then
        (s.modWin w fun x => { x with state := .offline, quiesceMode := none }).post w (evWindowOffline w) else s.setGroups w left :=
    fun hnot heq hne => by
      rw [State.drainTake_idle hnot, State.offlineIfEmpty, if_neg fun h => hne (heq.trans h.2), if_neg fun h => hne h.2, heq,
        State.setGroups_self]
  rcases hleft with (⟨hnil, rfl⟩ | ⟨y, ys, hgroups, hy, rfl⟩ | ⟨y, ys, hgroups, hy, he, ho, rfl⟩) | ⟨hne, ho, rfl⟩
  · rw [State.drainTake_idle fun y hy => by simp [State.oldest, hnil] at hy, State.offlineIfEmpty, hnil]
    split
    · rfl
    · rw [← hnil, State.setGroups_self]
  · refine hidle (fun z hz => ?_) hgroups.symm (by simp)
    obtain rfl : y = z := by simpa [State.oldest, hgroups] using hz
    simp [State.canTake, hy]
  · have hnot : (s.win w).state ≠ .frozen := by rcases hstate with h | h <;> rw [h] <;> decide
    have hold : s.oldest w = some y := by rw [State.oldest, hgroups]; rfl
    rw [State.drainTake_of_entries hold (by simp [State.canTake, hy, hnot, ho]) he, if_neg (by simp), State.setOldest_eq, hgroups]
    rfl
  · exact hidle (fun z _ => by simp [State.canTake, ho]) rfl hne

/-! ### Publication (R112) -/

theorem State.eventUnit_publishOldest (s : State) (w : WIdx) (g : Group) :
    (s.publishOldest w g).eventUnit = (s.post w (evGroupPublished w g)).eventUnit := by
  have hanswered : (s.publishOldest w g).eventUnit =
      (((s.post w (evGroupPublished w g)).bumpPublished w).answerPending g .done).eventUnit := by
    unfold State.publishOldest State.windowTrigger
    rfl
  rw [hanswered, State.eventUnit_answerPending]
  rfl

theorem State.holds_publishOldest (s : State) (w : WIdx) (g : Group) : (s.publishOldest w g).holds =
    s.holds.map fun h : Held => if h.window = w then { h with pending := true } else h := by
  have htrigger : ∀ a : State, (a.windowTrigger w).holds =
      a.holds.map fun h : Held => if h.window = w then { h with pending := true } else h := fun _ => rfl
  rw [State.publishOldest, htrigger]
  simp [State.bumpPublished]

theorem State.transit_publishOldest (s : State) (w : WIdx) (g : Group) :
    (s.publishOldest w g).transit = (s.answerPending g .done).transit := by
  simp only [State.publishOldest, State.windowTrigger_transit, State.modWin_transit]
  exact State.answerPending_transit (by rw [State.bumpPublished, State.modWin_transit, State.post_transit]) g .done

/-- What a publication leaves, with the group that the drain engine takes next. -/
structure Published (w : WIdx) (g : Group) (left : List Group) (s t : State) : Prop where
  win : t.win w = { s.win w with
    state := if (s.win w).state = .quiescing ∧ left = [] then .offline else (s.win w).state
    quiesceMode := if (s.win w).state = .quiescing ∧ left = [] then none else (s.win w).quiesceMode
    groups := left
    stats := { (s.win w).stats with published := (s.win w).stats.published + 1 } }
  only : OnlyAt w s t
  eventUnit : t.eventUnit = (if (s.win w).state = .quiescing ∧ left = [] then
    (s.post w (evGroupPublished w g)).post w (evWindowOffline w) else s.post w (evGroupPublished w g)).eventUnit
  holds : t.holds = s.holds.map fun h : Held => if h.window = w then { h with pending := true } else h
  transit : t.transit = (s.answerPending g .done).transit
  slots : t.slots = s.slots
  areas : t.areas = s.areas
  same : s.sameOutsideGroups t

/-- What the drain engine's taking leaves unchanged, besides the window. -/
structure TakenFrame (s t : State) : Prop where
  holds : t.holds = s.holds
  transit : t.transit = s.transit
  slots : t.slots = s.slots
  areas : t.areas = s.areas

theorem State.takenFrame (hstate : (s.win w).state = .online ∨ (s.win w).state = .quiescing)
    (hleft : s.leavesOrWaits w (s.win w).groups left) : TakenFrame s (s.drainTake w) := by
  rw [State.drainTake_leaves hstate hleft]
  split
  · exact ⟨by rw [State.post_holds, State.modWin_holds], by rw [State.post_transit, State.modWin_transit],
      by rw [State.post_slots, State.modWin_slots], by rw [State.post_areas, State.modWin_areas]⟩
  · exact ⟨rfl, rfl, rfl, rfl⟩

theorem State.win_drainTake (hstate : (s.win w).state = .online ∨ (s.win w).state = .quiescing)
    (hleft : s.leavesOrWaits w (s.win w).groups left) : (s.drainTake w).win w = { s.win w with
      state := if (s.win w).state = .quiescing ∧ left = [] then .offline else (s.win w).state
      quiesceMode := if (s.win w).state = .quiescing ∧ left = [] then none else (s.win w).quiesceMode
      groups := left } := by
  rw [State.drainTake_leaves hstate hleft]
  split
  next hend => rw [State.win_post, State.win_modWin_same, hleft.nil_of_nil hend.2, hend.2]
  next => rw [State.win_setGroups]

theorem State.eventUnit_drainTake (hstate : (s.win w).state = .online ∨ (s.win w).state = .quiescing)
    (hleft : s.leavesOrWaits w (s.win w).groups left) : (s.drainTake w).eventUnit =
      (if (s.win w).state = .quiescing ∧ left = [] then s.post w (evWindowOffline w) else s).eventUnit := by
  rw [State.drainTake_leaves hstate hleft]
  split
  · refine post_eventUnit (s := s.modWin w fun x => { x with state := .offline, quiesceMode := none }) (t := s) ?_ ?_ _
    · rw [State.win_modWin_same]
    · rfl
  · rfl

theorem State.published (hstate : (s.win w).state = .online ∨ (s.win w).state = .quiescing)
    (hleft : s.leaves w (s.win w).groups.tail left) : Published w g left s (s.publish w g) := by
  obtain ⟨p, hp⟩ : ∃ p : State, p = s.publishOldest w g := ⟨_, rfl⟩
  have hpublish : s.publish w g = p.drainTake w := by rw [hp]; rfl
  have hwin : p.win w = { s.win w with
      groups := (s.win w).groups.tail
      stats := { (s.win w).stats with published := (s.win w).stats.published + 1 } } := by rw [hp]; exact s.win_publishOldest w g
  have hcredits : p.credits = s.credits := by rw [hp]; exact sameOutsideGroups_credits (same_closed.publishOldest s w g)
  have hpstate : (p.win w).state = .online ∨ (p.win w).state = .quiescing := by rwa [hwin]
  have hpleft : p.leaves w (p.win w).groups left := by
    have horphan : p.hasOrphan w = s.hasOrphan w := by simp only [State.hasOrphan, hcredits]
    rw [hwin]
    unfold State.leaves at hleft ⊢
    rwa [horphan]
  have hptakes : p.leavesOrWaits w (p.win w).groups left := .inl hpleft
  have hframe := State.takenFrame hpstate hptakes
  have hevents : p.eventUnit = (s.post w (evGroupPublished w g)).eventUnit := by rw [hp]; exact s.eventUnit_publishOldest w g
  have henables : (p.win w).enables = ((s.post w (evGroupPublished w g)).win w).enables := by rw [hwin, State.win_post]
  refine ⟨?_, (OnlyAt.publishOldest s g).trans (.drainTake _), ?_, ?_, ?_, ?_, ?_, same_closed.publish s w g⟩
  · rw [hpublish, State.win_drainTake hpstate hptakes, hwin]
  · rw [hpublish, State.eventUnit_drainTake hpstate hptakes, hwin]
    dsimp only
    split
    · exact post_eventUnit henables hevents _
    · exact hevents
  · rw [hpublish, hframe.holds, hp, State.holds_publishOldest]
  · rw [hpublish, hframe.transit, hp, State.transit_publishOldest]
  · rw [hpublish, hframe.slots, hp]
    simp [State.publishOldest, State.bumpPublished]
  · rw [hpublish, hframe.areas, hp]
    simp [State.publishOldest, State.bumpPublished]

end

/-! ### Publication by a response (R109 to R111) -/

section
variable {s u t : State} {c : CreditNo} {w : WIdx} {g y : Group} {left : List Group}

/-- A state in which the oldest record of window `w`, acknowledged, alone differs from `s`, but for credit `c`, slots and areas. -/
structure Acknowledged (w : WIdx) (c : CreditNo) (g y : Group) (s u : State) : Prop where
  record : y.number = g.number ∧ y.owner = g.owner ∧ y.pendingMarker = g.pendingMarker
  win : u.win w = { s.win w with groups := y :: (s.win w).groups.tail }
  only : OnlyAt w s u
  eventUnit : u.eventUnit = s.eventUnit
  holds : u.holds = s.holds
  transit : u.transit = s.transit
  credits : u.credits = s.credits.set c.val .free c.isLt
  same : CreditFrame s u

/-- A freed credit makes no orphaned write. -/
theorem State.hasOrphan_of_freed (hcredits : u.credits = s.credits.set c.val .free c.isLt) (h : s.hasOrphan w = false) :
    u.hasOrphan w = false := by
  have heq : u.hasOrphan w = (s.setCredit c .free).hasOrphan w := by simp only [State.hasOrphan, hcredits, State.setCredit]
  rw [heq, ← Bool.not_eq_true, State.hasOrphan_setCredit_free]
  rintro ⟨d, -, hd⟩
  rw [← Bool.not_eq_true, State.hasOrphan_iff] at h
  exact h ⟨d, hd⟩

theorem State.leaves.freed {l : List Group} (hcredits : u.credits = s.credits.set c.val .free c.isLt) (h : s.leaves w l left) :
    u.leaves w l left := by
  rcases h with h | h | ⟨y, ys, hl, hy, he, ho, hleft⟩
  · exact .inl h
  · exact .inr (.inl h)
  · exact .inr (.inr ⟨y, ys, hl, hy, he, State.hasOrphan_of_freed hcredits ho, hleft⟩)

/-- The parts of O31's conclusion that do not depend on the response, of a state `t` after the publication of `y`. -/
theorem Acknowledged.publishes (h : Acknowledged w c g y s u) (hstate : (s.win w).state = .online ∨ (s.win w).state = .quiescing)
    (hleft : s.leaves w (s.win w).groups.tail left) :
    let t := u.publish w y
    let ends := (s.win w).state = .quiescing ∧ left = []
    t.win w = { s.win w with
        state := if ends then .offline else (s.win w).state
        quiesceMode := if ends then none else (s.win w).quiesceMode
        groups := left
        stats := { (s.win w).stats with published := (s.win w).stats.published + 1 } } ∧
      OnlyAt w s t ∧
      t.eventUnit = (let v := s.post w (evGroupPublished w g)
        if ends then v.post w (evWindowOffline w) else v).eventUnit ∧
      t.credits = s.credits.set c.val .free c.isLt ∧
      t.holds = (s.holds.map fun h : Held => if h.window = w then { h with pending := true } else h) ∧
      t.transit = (s.answerPending g .done).transit ∧ t.slots = u.slots ∧ t.areas = u.areas ∧ CreditFrame s t := by
  obtain ⟨⟨hnumber, howner, hpending⟩, hwin, honly, hevents, hholds, htransit, hcredits, hframe⟩ := h
  have hpublished : Published w y left u (u.publish w y) :=
    State.published (by rwa [hwin]) (by rw [hwin]; exact hleft.freed hcredits)
  have hrecord : evGroupPublished w y = evGroupPublished w g := by rw [evGroupPublished, evGroupPublished, hnumber, howner]
  have hanswer : ∀ a : State, a.answerPending y .done = a.answerPending g .done := fun a => by
    rw [State.answerPending, State.answerPending, hpending]
  have henables : (u.win w).enables = (s.win w).enables := by rw [hwin]
  have hpost : (u.post w (evGroupPublished w g)).eventUnit = (s.post w (evGroupPublished w g)).eventUnit :=
    post_eventUnit henables hevents _
  refine ⟨?_, honly.trans hpublished.only, ?_, (sameOutsideGroups_credits hpublished.same).trans hcredits,
    by rw [hpublished.holds, hholds], ?_, hpublished.slots, hpublished.areas, hframe.trans (.of_same hpublished.same)⟩
  · rw [hpublished.win, hwin]
  · rw [hpublished.eventUnit, hrecord, hwin]
    dsimp only
    split
    · refine post_eventUnit ?_ hpost _
      rw [State.win_post, State.win_post, henables]
    · exact hpost
  · rw [hpublished.transit, hanswer]
    exact State.answerPending_transit htransit g .done

end

section
variable {s t u : State} {c : CreditNo} {w : WIdx} {g y : Group} {left : List Group}

/-- The mark of the held writes of a window, and then of those that wait for an area. -/
theorem map_marks (l : List Held) (p q : Held → Prop) [DecidablePred p] [DecidablePred q]
    (hq : ∀ h : Held, q { h with pending := true } ↔ q h) :
    ((l.map fun h : Held => if p h then { h with pending := true } else h).map fun h : Held =>
      if q h then { h with pending := true } else h) = l.map fun h : Held => if p h ∨ q h then { h with pending := true } else h := by
  rw [List.map_map]
  refine List.map_congr_left fun h _ => ?_
  by_cases hp : p h
  · simp [hp, hq]
  · simp [hp]

theorem CreditFrame.softReset (h : CreditFrame s t) : t.softReset = s.softReset := Eq.trans (congrArg State.softReset h) rfl

theorem OnlyAt.setOldest (s : State) (y : Group) : OnlyAt w s (s.setOldest w y) := .modWin s _

/-- The record acknowledged by the marker's DONE (R111). -/
theorem Acknowledged.marker (s : State) (w : WIdx) (c : CreditNo) (g : Group) :
    Acknowledged w c g { g with outstanding := 0 } s ((s.setCredit c .free).setOldest w { g with outstanding := 0 }) where
  record := ⟨rfl, rfl, rfl⟩
  win := State.win_setOldest _ _ _
  only := OnlyAt.setOldest (s.setCredit c .free) _
  eventUnit := rfl
  holds := rfl
  transit := rfl
  credits := rfl
  same := (CreditFrame.setCredit s c .free).trans (.of_same (same_closed.setOldest _ w _))

/-- The record acknowledged by its last entry's DONE (R109). -/
theorem Acknowledged.entry (s : State) (w : WIdx) (c : CreditNo) (g : Group) (e : Entry) :
    Acknowledged w c g g.ackedOnce s ((s.setCredit c .free).freeAcked w g e) where
  record := ⟨rfl, rfl, rfl⟩
  win := State.win_freeAcked (s.setCredit c .free) w g e
  only := OnlyAt.setOldest (s := _) _
  eventUnit := rfl
  holds := rfl
  transit := rfl
  credits := rfl
  same := (CreditFrame.setCredit s c .free).trans (.of_same rfl)

/-- A trigger of an area marks, after a publication, the writes that waited for it before (R148). -/
theorem Published.holds_areaTrigger (hjoined : ∀ v a, (t.win v).joined a = (s.win v).joined a)
    (hholds : t.holds = s.holds.map fun h : Held => if h.window = w then { h with pending := true } else h) (a : AIdx) :
    (t.areaTrigger a).holds = s.holds.map fun h : Held =>
      if h.window = w ∨ (h.reason = .areaWait ∧ (s.win h.window).joined a = true) then { h with pending := true } else h := by
  have hmarks := map_marks s.holds (fun h => h.window = w) (fun h => h.reason = .areaWait ∧ (s.win h.window).joined a = true)
    fun _ => Iff.rfl
  rw [← hmarks, ← hholds, State.areaTrigger]
  simp only [hjoined]

/-- A LATE marker's answer: none without one, and DONE to its record (R74). -/
theorem State.answerPending_cases (s : State) (g : Group) (r : Result) :
    (g.pendingMarker = none → (s.answerPending g r).transit = s.transit) ∧
      ∀ src tag u, g.pendingMarker = some (src, tag) → s.groupRcd? src tag = some u →
        (s.answerPending g r).transit = (s.answerRcd u r none).transit :=
  ⟨fun h => by rw [State.answerPending_none h], fun _ _ _ h hu => by rw [State.answerPending_some h hu]⟩

/-- A publication joins no window to an area and separates none. -/
theorem joined_of_published (hstate : (s.win w).state = .online ∨ (s.win w).state = .quiescing)
    (hwin : t.win w = { s.win w with
      state := if (s.win w).state = .quiescing ∧ left = [] then .offline else (s.win w).state
      quiesceMode := if (s.win w).state = .quiescing ∧ left = [] then none else (s.win w).quiesceMode
      groups := left
      stats := { (s.win w).stats with published := (s.win w).stats.published + 1 } })
    (honly : OnlyAt w s t) (v : WIdx) (a : AIdx) : (t.win v).joined a = (s.win v).joined a := by
  by_cases hv : v = w
  · have harea : (t.win w).area = (s.win w).area := by rw [hwin]
    have hused : (t.win w).state ≠ .unused ∧ (s.win w).state ≠ .unused := by
      rw [hwin]
      rcases hstate with h | h <;> rw [h]
      · exact ⟨by simp, by decide⟩
      · exact ⟨by dsimp only; split <;> decide, by decide⟩
    rw [hv, Window.joined, Window.joined, harea, bne_iff_ne.2 hused.1, bne_iff_ne.2 hused.2]
  · rw [honly v hv]

theorem State.oldest_freeAcked (s : State) (w : WIdx) (g : Group) (e : Entry) : (s.freeAcked w g e).oldest w = some g.ackedOnce :=
  State.oldest_setOldest _

/-- The last entry of a group without marker data: the group publishes (R110). -/
theorem State.afterAck_publishes (hg : s.oldest w = some g) (hd : g.state = .draining) (he : g.entryCount = 0)
    (hm : g.markerData = none) : s.afterAck w = s.publish w g := by
  simp [State.afterAck, hg, hd, he, hm]

end

/-- Settles O31: a response acknowledges the oldest record, and the publication does the rest. -/
theorem markerAcknowledgedPublishes : Obligations.MarkerAcknowledgedPublishes := by
  intro s c data w g left hreset hsoft hg hstate hleft
  dsimp only
  constructor
  · intro m hm hc hmarking
    let u : State := (s.setCredit c .free).setOldest w { g with outstanding := 0 }
    obtain ⟨hwin, honly, hevents, hcredits, hholds, htransit, hslots, hareas, hframe⟩ :=
      (Acknowledged.marker s w c g).publishes hstate hleft
    have hresponse : (s.setCredit c .free).drainResponse (.marker w g.number) .done = u.publish w { g with outstanding := 0 } := by
      have hold : (s.setCredit c .free).oldest w = some g := hg
      simp [State.drainResponse, State.markerResponse, hold, Option.mem_def.1 hm, hmarking, State.markerAnswered, u]
    refine ⟨u.publish w { g with outstanding := 0 }, ?_, hslots, hareas, hwin, honly, hevents, hcredits, hholds, ?_, ?_, hframe⟩
    · rw [exec_downResponse_drain hreset hc, hresponse, State.softResetCheck_off (hframe.softReset.trans hsoft)]
    · exact fun h => htransit.trans ((s.answerPending_cases g .done).1 h)
    · exact fun src tag v h hv => htransit.trans ((s.answerPending_cases g .done).2 src tag v h hv)
  · intro e he hc hd hcount hdata hone hwf heg
    obtain ⟨t, ht⟩ : ∃ t : State, t = ((s.setCredit c .free).freeAcked w g e).publish w g.ackedOnce := ⟨_, rfl⟩
    have hpublishes := (Acknowledged.entry s w c g e).publishes hstate hleft
    rw [← ht] at hpublishes
    obtain ⟨hwin, honly, hevents, hcredits, hholds, htransit, hslots, hareas, hframe⟩ := hpublishes
    have hresponse : (s.setCredit c .free).drainResponse (.entry w g.number e.sequence) .done = t.areaTrigger (s.win w).area := by
      have hentry := State.entryResponse_eq (s := s.setCredit c .free) hg he heg hone .done
      rw [State.drainResponse, hentry, State.entryAnswered, State.entryDone,
        State.afterAck_publishes (State.oldest_freeAcked _ w g e) hd (by simp [Group.ackedOnce, hcount]) hdata, ← ht,
        State.win_setCredit]
    have hsoft' : (t.areaTrigger (s.win w).area).softReset = false := hframe.softReset.trans hsoft
    refine ⟨t.areaTrigger (s.win w).area, ?_, ?_, ?_, ?_, ?_, ?_, ?_,
      Published.holds_areaTrigger (fun v b => joined_of_published hstate hwin honly v b) hholds _, ?_, ?_, ?_⟩
    · rw [exec_downResponse_drain hreset hc, hresponse, State.softResetCheck_off hsoft']
    · rw [State.areaTrigger_slots, hslots, ← filter_slot_ne hwf he]
      rfl
    · rw [State.areaTrigger_areas, hareas]
      rfl
    · rw [State.win_areaTrigger]
      exact hwin
    · intro v hv
      rw [State.win_areaTrigger]
      exact honly v hv
    · exact hevents
    · rw [State.areaTrigger_credits]
      exact hcredits
    · intro h
      rw [State.areaTrigger_transit]
      exact htransit.trans ((s.answerPending_cases g .done).1 h)
    · intro src tag v h hv
      rw [State.areaTrigger_transit]
      exact htransit.trans ((s.answerPending_cases g .done).2 src tag v h hv)
    · exact hframe.trans (.of_same rfl)

end Sys2Proof.Machine
end

section
/-! O32. What a freeze leaves (R35, R80, R114, R115, R153). -/

namespace Sys2Proof.Machine

/-! ### The break of whatever is OPEN, in a queue of R61 -/

/-- Of a queue's records only the youngest can be OPEN (R61). -/
theorem shaped.opened_cases {l : List Group} (h : shaped l) :
    (l.filter (fun y : Group => y.state == .opened) = [] ∧ ∀ y ∈ l.getLast?, y.state ≠ .opened) ∨
      ∃ y, l.getLast? = some y ∧ y.state = .opened ∧ l.filter (fun y : Group => y.state == .opened) = [y] := by
  have hinit := h.not_open_of_dropLast
  rcases List.eq_nil_or_concat l with rfl | ⟨init, y, rfl⟩
  · exact .inl ⟨rfl, fun y hy => by cases hy⟩
  · rw [List.concat_eq_append] at hinit ⊢
    rw [List.dropLast_concat] at hinit
    have hnone : init.filter (fun y : Group => y.state == .opened) = [] :=
      List.filter_eq_nil_iff.2 fun x hx => by simpa using hinit x hx
    by_cases ho : y.state = .opened
    · exact .inr ⟨y, by simp, ho, by simp [List.filter_append, hnone, ho]⟩
    · exact .inl ⟨by simp [List.filter_append, hnone, ho], fun z hz => by
        rw [List.getLast?_concat] at hz
        rwa [← Option.some.inj hz]⟩

section
variable {s t u : State} {w : WIdx} {g : Group}

/-- The entry is one of these groups of window `w`. -/
def Entry.ofGroups (e : Entry) (w : WIdx) (l : List Group) : Bool := l.any fun y => e.ofGroup w y.number

/-- What the break of the groups `l`, all of the OPEN ones, leaves besides the window's own record. -/
structure Broke (w : WIdx) (c : Cause) (line : Option Line) (l : List Group) (s t : State) : Prop where
  slots : t.slots = s.slots.filter fun e => !e.ofGroups w l
  areas : t.areas = (s.setArea (s.win w).area
    { s.area (s.win w).area with used := (s.area (s.win w).area).used - s.slots.countP fun e => e.ofGroups w l }).areas
  holds : t.holds = s.holds.map fun h : Held =>
    if 0 < (s.slots.countP fun e => e.ofGroups w l) ∧ h.reason = .areaWait ∧ (s.win h.window).joined (s.win w).area = true then
      { h with pending := true } else h
  eventUnit : t.eventUnit = ((l.map fun y => evGroupBroken w y c line).foldl (fun u e => u.post w e) s).eventUnit
  transit : t.transit = s.transit
  same : s.sameOutsideGroups t

theorem State.setArea_self (s : State) (a : AIdx) : s.setArea a (s.area a) = s := by
  have hset : s.areas.set a.val (s.area a) a.isLt = s.areas := by simp [State.area]
  rw [State.setArea, hset]

theorem State.broke (h : shaped (s.win w).groups) (c : Cause) (line : Option Line) :
    Broke w c line ((s.win w).groups.filter fun y : Group => y.state == .opened) s (s.breakOpen w c line) := by
  rcases h.opened_cases with ⟨hnil, hnone⟩ | ⟨y, hy, ho, hone⟩
  · rw [hnil, State.breakOpen_none hnone]
    refine ⟨?_, ?_, ?_, rfl, rfl, rfl⟩
    · simp [Entry.ofGroups]
    · rw [List.countP_eq_zero.2 (by simp [Entry.ofGroups]), Nat.sub_zero]
      exact (congrArg State.areas (s.setArea_self (s.win w).area)).symm
    · simp [Entry.ofGroups]
  · rw [hone]
    obtain ⟨hsame, htransit, hslots, hareas, -, -, hevents, hholds⟩ := (breakOfOpenGroup s w c line).1 y hy ho
    have hof : (fun e : Entry => e.ofGroups w [y]) = fun e => e.ofGroup w y.number := by funext e; simp [Entry.ofGroups]
    refine ⟨?_, ?_, ?_, hevents, htransit, hsame⟩
    · simpa [Entry.ofGroups] using hslots
    · rw [hof]
      exact hareas
    · rw [hof]
      exact hholds

/-! ### The held writes refused (R153) -/

/-- Posts read the event unit and the window's event enables. -/
theorem posts_eventUnit (l : List EventBody) (hen : (s.win w).enables = (t.win w).enables) (h : s.eventUnit = t.eventUnit) :
    (l.foldl (fun u e => u.post w e) s).eventUnit = (l.foldl (fun u e => u.post w e) t).eventUnit := by
  induction l generalizing s t with
  | nil => exact h
  | cons e l ih => exact ih (by rw [State.win_post, State.win_post, hen]) (post_eventUnit hen h e)

theorem State.win_posts (l : List EventBody) (s : State) (v : WIdx) : (l.foldl (fun u e => u.post w e) s).win v = s.win v := by
  induction l generalizing s with
  | nil => rfl
  | cons e l ih => rw [List.foldl_cons, ih, State.win_post]

theorem State.eventUnit_answerWrite (s : State) (src : Source) (tag : Tag) (r : Result) :
    (s.answerWrite src tag r).eventUnit = s.eventUnit := by
  unfold State.answerWrite
  split <;> rfl

theorem State.eventUnit_refusals {l : List Held} (hl : ∀ h ∈ l, h.window = w) (c : Cause) (s : State) :
    (l.foldl (fun s h => s.refuseWrite h.toWrite c) s).eventUnit =
      ((l.map fun h => evWriteRefused w h.source c h.line).foldl (fun u e => u.post w e) s).eventUnit := by
  induction l generalizing s with
  | nil => rfl
  | cons h l ih =>
    have hw : h.window = w := hl h (by simp)
    have hend : (s.endWrite h.toWrite .refused).eventUnit = s.eventUnit := State.eventUnit_answerWrite (s.dropHold h.slot) _ _ _
    have henables : ((s.endWrite h.toWrite .refused).win w).enables = (s.win w).enables := by
      simp [Held.toWrite]
    rw [List.foldl_cons, List.map_cons, List.foldl_cons, ih fun y hy => hl y (by simp [hy])]
    refine posts_eventUnit _ ?_ ?_
    · rw [State.win_post, ← hw]
      simp [State.refuseWrite, State.bumpRefused, Held.toWrite]
    · have hpost := post_eventUnit henables hend (evWriteRefused w h.source c h.line)
      rw [← hw] at hpost ⊢
      exact hpost

/-! ### The answers of writes (R7, R9) -/

/-- The write of this source and tag answered with this result. -/
structure Told where
  source : Source
  tag : Tag
  result : Result

/-- The record waits for the answer `a`: it is on path GROUP, unanswered, with the source and the tag of the write. -/
abbrev Transit.awaits (r : Transit) (a : Told) : Prop := r.path = .group ∧ r.result = none ∧ a.source = r.source ∧ a.tag = r.tag

/-- A record after these answers, in their order. -/
def Transit.told (r : Transit) (l : List Told) : Transit :=
  l.foldl (fun r a => if r.awaits a then r.answered a.result none else r) r

theorem Transit.told_none {r : Transit} {l : List Told} (h : ∀ a ∈ l, ¬r.awaits a) : r.told l = r := by
  induction l with
  | nil => rfl
  | cons a l ih =>
    rw [Transit.told, List.foldl_cons, if_neg (h a (by simp))]
    exact ih fun b hb => h b (by simp [hb])

theorem Transit.told_cons_of_awaits {r : Transit} {a : Told} (h : r.awaits a) (l : List Told) :
    r.told (a :: l) = r.answered a.result none := by
  rw [Transit.told, List.foldl_cons, if_pos h]
  exact Transit.told_none (r := r.answered a.result none) fun b _ hb => by cases hb.2.1

/-- The first answer that a record waits for is its answer; here all of them are the same. -/
theorem Transit.told_some {r : Transit} {l : List Told} {res : Result} (hall : ∀ a ∈ l, r.awaits a → a.result = res)
    (hex : ∃ a ∈ l, r.awaits a) : r.told l = r.answered res none := by
  induction l with
  | nil =>
    obtain ⟨a, ha, -⟩ := hex
    cases ha
  | cons a l ih =>
    by_cases ha : r.awaits a
    · rw [Transit.told_cons_of_awaits ha, hall a (by simp) ha]
    · rw [Transit.told, List.foldl_cons, if_neg ha]
      refine ih (fun b hb => hall b (by simp [hb])) ?_
      obtain ⟨b, hb, hw⟩ := hex
      exact ⟨b, (List.mem_cons.1 hb).resolve_left fun h => ha (h ▸ hw), hw⟩

theorem Transit.told_unanswered {r : Transit} {l : List Told} (h : (r.told l).result = none) : r.told l = r := by
  refine Transit.told_none fun a ha hw => ?_
  induction l with
  | nil => cases ha
  | cons b l ih =>
    by_cases hb : r.awaits b
    · rw [Transit.told_cons_of_awaits hb] at h
      cases h
    · rw [Transit.told, List.foldl_cons, if_neg hb] at h
      exact ih h ((List.mem_cons.1 ha).resolve_left fun he => hb (he ▸ hw))

/-- The transit table of `t` is that of `s` after these answers. -/
def Tells (l : List Told) (s t : State) : Prop := ∀ u, t.rcd u = (s.rcd u).map fun r => r.told l

theorem Tells.of_transit (h : t.transit = s.transit) : Tells [] s t := fun u => by
  have hid : (fun r : Transit => r.told []) = id := rfl
  rw [State.rcd, h, hid, Option.map_id]
  rfl

theorem Tells.trans {l m : List Told} (h : Tells l s t) (k : Tells m t u) : Tells (l ++ m) s u := fun v => by
  rw [k, h, Option.map_map]
  refine congrArg (Option.map · _) (funext fun r => ?_)
  rw [Transit.told, List.foldl_append]
  rfl

/-- Answers make no two records waiting with one source and tag. -/
theorem Tells.oneRecordEach {l : List Told} (h : Tells l s t) (hone : s.oneRecordEach) : t.oneRecordEach := by
  have hback : ∀ v, ∀ r ∈ t.rcd v, r.result = none → r ∈ s.rcd v := fun v r hr hn => by
    rw [h] at hr
    obtain ⟨x, hx, rfl⟩ := Option.mem_map.1 hr
    rwa [Transit.told_unanswered hn]
  intro v v' x hx y hy hpx hpy hnx hny
  exact hone v v' x (hback v x hx hnx) y (hback v' y hy hny) hpx hpy hnx hny

theorem State.groupRcd?_eq_some {src : Source} {tag : Tag} {v : RecNo} (h : s.groupRcd? src tag = some v) :
    ∃ r, s.rcd v = some r ∧ r.source = src ∧ r.tag = tag ∧ r.path = .group ∧ r.result = none := by
  have hfound := List.find?_some h
  cases hr : s.rcd v with
  | none => rw [hr] at hfound; cases hfound
  | some r =>
    rw [hr] at hfound
    simp only [Bool.and_eq_true, beq_iff_eq, Option.isNone_iff_eq_none] at hfound
    obtain ⟨⟨⟨hsrc, htag⟩, hpath⟩, hresult⟩ := hfound
    exact ⟨r, rfl, hsrc, htag, hpath, hresult⟩

theorem State.groupRcd?_eq_none {src : Source} {tag : Tag} (h : s.groupRcd? src tag = none) {v : RecNo} {r : Transit}
    (hr : s.rcd v = some r) : ¬(r.path = .group ∧ r.result = none ∧ src = r.source ∧ tag = r.tag) := by
  rintro ⟨hpath, hresult, hsrc, htag⟩
  have hno := List.find?_eq_none.1 h v (List.mem_finRange v)
  rw [hr] at hno
  simp [hpath, hresult, hsrc, htag] at hno

/-- Where no two unanswered records bear one source and tag, the answer of a write is that of each record that bears them. -/
theorem State.answerWrite_tells (hone : s.oneRecordEach) (src : Source) (tag : Tag) (res : Result) :
    Tells [⟨src, tag, res⟩] s (s.answerWrite src tag res) := by
  intro u
  have hkept : (∀ r, s.rcd u = some r → ¬r.awaits ⟨src, tag, res⟩) → (s.rcd u).map (fun r => r.told [⟨src, tag, res⟩]) = s.rcd u :=
    fun hno => by
      cases hr : s.rcd u with
      | none => rfl
      | some r => exact congrArg some (if_neg (hno r hr))
  rw [State.answerWrite]
  cases hfind : s.groupRcd? src tag with
  | none => exact (hkept fun r hr => State.groupRcd?_eq_none hfind hr).symm
  | some v =>
    obtain ⟨x, hx, hsrc, htag, hpath, hresult⟩ := State.groupRcd?_eq_some hfind
    by_cases hu : u = v
    · subst hu
      rw [hx, Option.map_some, Transit.told_cons_of_awaits ⟨hpath, hresult, hsrc.symm, htag.symm⟩]
      simp [State.answerRcd, State.modRcd, hx]
    · rw [hkept fun r hr ⟨hp, hn, hs, ht⟩ => hu
        (hone u v r (by simp [hr]) x (by simp [hx]) hp hpath hn hresult (hs.symm.trans hsrc.symm) (ht.symm.trans htag.symm))]
      exact State.rcd_setRcd_other s _ hu

theorem State.transit_refuseWrite (s : State) (h : Held) (c : Cause) :
    (s.refuseWrite h.toWrite c).transit = (s.answerWrite h.source h.tag .refused).transit := by
  have hend : (s.endWrite h.toWrite .refused).transit = (s.answerWrite h.source h.tag .refused).transit := by
    change ((s.dropHold h.slot).answerWrite h.source h.tag .refused).transit = _
    have hfind : (s.dropHold h.slot).groupRcd? h.source h.tag = s.groupRcd? h.source h.tag := rfl
    rw [State.answerWrite, State.answerWrite, hfind]
    split <;> rfl
  rw [State.refuseWrite, State.bumpRefused, State.modWin_transit, State.post_transit, hend]

/-- The answer to a held write that is refused. -/
def Held.told (h : Held) : Told := ⟨h.source, h.tag, .refused⟩

theorem State.refusals_tell (c : Cause) (l : List Held) {s : State} (hone : s.oneRecordEach) :
    Tells (l.map Held.told) s (l.foldl (fun s h => s.refuseWrite h.toWrite c) s) := by
  induction l generalizing s with
  | nil => exact .of_transit rfl
  | cons h l ih =>
    have hfirst : Tells [h.told] s (s.refuseWrite h.toWrite c) :=
      (State.answerWrite_tells hone h.source h.tag .refused).trans (.of_transit (s.transit_refuseWrite h c))
    exact hfirst.trans (ih (hfirst.oneRecordEach hone))

/-- A record after the refusal of the held writes `l`. -/
def Transit.refusedFor (r : Transit) (l : List Held) : Transit :=
  if r.path = .group ∧ r.result = none ∧ ∃ h ∈ l, h.source = r.source ∧ h.tag = r.tag then r.answered .refused none else r

theorem Transit.told_refused (r : Transit) (l : List Held) : r.told (l.map Held.told) = r.refusedFor l := by
  unfold Transit.refusedFor
  split
  · next hr =>
    obtain ⟨hpath, hresult, h, hh, hsrc, htag⟩ := hr
    refine Transit.told_some (fun a ha _ => ?_) ⟨h.told, List.mem_map_of_mem hh, hpath, hresult, hsrc, htag⟩
    obtain ⟨y, -, rfl⟩ := List.mem_map.1 ha
    rfl
  · next hr =>
    refine Transit.told_none fun a ha ⟨hpath, hresult, hsrc, htag⟩ => hr ⟨hpath, hresult, ?_⟩
    obtain ⟨h, hh, rfl⟩ := List.mem_map.1 ha
    exact ⟨h, hh, hsrc, htag⟩

/-! ### The freeze (R35, R114, R115) -/

theorem Window.freeze_enables (x : Window) : x.freeze.enables = x.enables := by
  cases x with
  | mk state => cases state <;> rfl

/-- The window FROZEN and GROUP_FAULTED posted, the first steps of a freeze. -/
def State.faulting (s : State) (w : WIdx) (g : Group) (line : Line) : State :=
  ((s.setOldest w (g.failed line)).modWin w Window.freeze).post w (evGroupFaulted w (g.failed line) line)

theorem State.freezing_eq (s : State) (w : WIdx) (g : Group) (line : Line) :
    s.freezing w g line = (s.faulting w g line).refuseHeld w := rfl

theorem State.win_faulting (s : State) (w : WIdx) (g : Group) (line : Line) : (s.faulting w g line).win w =
    { (s.win w).freeze with groups := g.failed line :: (s.win w).groups.tail } := by
  rw [State.faulting, State.win_post, State.win_modWin_same, State.win_setOldest, Window.freeze_groups_eq]

theorem State.faulting_kept (s : State) (w : WIdx) (g : Group) (line : Line) :
    (s.faulting w g line).slots = s.slots ∧ (s.faulting w g line).areas = s.areas ∧ (s.faulting w g line).holds = s.holds ∧
      (s.faulting w g line).transit = s.transit := by
  refine ⟨?_, ?_, ?_, ?_⟩
  · rw [State.faulting, State.post_slots]
    rfl
  · rw [State.faulting, State.post_areas]
    rfl
  · rw [State.faulting, State.post_holds]
    rfl
  · rw [State.faulting, State.post_transit]
    rfl

theorem State.eventUnit_faulting (s : State) (w : WIdx) (g : Group) (line : Line) :
    (s.faulting w g line).eventUnit = (s.post w (evGroupFaulted w (g.failed line) line)).eventUnit := by
  refine post_eventUnit (s := (s.setOldest w (g.failed line)).modWin w Window.freeze) (t := s) ?_ rfl _
  rw [State.win_modWin_same, Window.freeze_enables, State.win_setOldest]

/-- What the freeze of window `w` behind its failed oldest group leaves. -/
structure Froze (w : WIdx) (g : Group) (line : Line) (from_ : FrozenFrom) (s t : State) : Prop where
  win : t.win w = { s.win w with
    state := .frozen, frozenFrom := some from_, quiesceMode := none
    groups := g.failed line :: (s.win w).groups.tail.map Group.brokenIfOpen
    stats := { (s.win w).stats with
      refused := (s.win w).stats.refused + BitVec.ofNat 32 (s.holds.filter fun h : Held => h.window == w).length
      broken := (s.win w).stats.broken +
        BitVec.ofNat 32 ((s.win w).groups.tail.filter fun y : Group => y.state == .opened).length } }
  only : OnlyAt w s t
  slots : t.slots = s.slots.filter fun e => !e.ofGroups w ((s.win w).groups.tail.filter fun y : Group => y.state == .opened)
  areas : t.areas = (s.setArea (s.win w).area
    { s.area (s.win w).area with
      used := (s.area (s.win w).area).used -
        s.slots.countP fun e => e.ofGroups w ((s.win w).groups.tail.filter fun y : Group => y.state == .opened) }).areas
  holds : t.holds = (s.holds.filter fun h : Held => h.window != w).map fun h : Held =>
    if 0 < (s.slots.countP fun e => e.ofGroups w ((s.win w).groups.tail.filter fun y : Group => y.state == .opened)) ∧
      h.reason = .areaWait ∧ (s.win h.window).joined (s.win w).area = true then { h with pending := true } else h
  rcd : ∀ u, t.rcd u = (s.rcd u).map fun r => r.refusedFor (s.holds.filter fun h : Held => h.window == w)
  eventUnit : t.eventUnit = (([evGroupFaulted w (g.failed line) line] ++
    ((s.holds.filter fun h : Held => h.window == w).map fun h => evWriteRefused w h.source .windowState h.line) ++
    (((s.win w).groups.tail.filter fun y : Group => y.state == .opened).map fun y => evGroupBroken w y .freeze none)).foldl
      (fun u e => u.post w e) s).eventUnit
  same : s.sameOutsideGroups t

theorem Window.freeze_live {x : Window} {from_ : FrozenFrom}
    (h : x.state = .online ∧ from_ = .online ∨ x.state = .quiescing ∧ from_ = .quiescing) :
    x.freeze = { x with state := .frozen, frozenFrom := some from_, quiesceMode := none } := by
  rcases h with ⟨h, rfl⟩ | ⟨h, rfl⟩ <;> simp [Window.freeze, h]

theorem State.froze {from_ : FrozenFrom} {line : Line} (hshape : shaped (g.failed line :: (s.win w).groups.tail))
    (hnodup : (s.holds.map Held.slot).Nodup) (hone : s.oneRecordEach)
    (hlive : (s.win w).state = .online ∧ from_ = .online ∨ (s.win w).state = .quiescing ∧ from_ = .quiescing) :
    Froze w g line from_ s (s.frozenBehind w g line) := by
  have hfaulting := s.win_faulting w g line
  rw [Window.freeze_live hlive] at hfaulting
  obtain ⟨hkeptSlots, hkeptAreas, hkeptHolds, hkeptTransit⟩ := s.faulting_kept w g line
  obtain ⟨a, ha⟩ : ∃ a, a = s.faulting w g line := ⟨_, rfl⟩
  obtain ⟨b, hb⟩ : ∃ b, b = a.refuseHeld w := ⟨_, rfl⟩
  have hfrozen : s.frozenBehind w g line = b.breakOpen w .freeze none := by rw [hb, ha]; rfl
  rw [← ha] at hfaulting hkeptSlots hkeptAreas hkeptHolds hkeptTransit
  have honly : OnlyAt w s b := by
    rw [hb, ha]
    exact (((OnlyAt.modWin s _).trans (.modWin _ _)).trans (.post _ w _)).trans (.refuseHeld _)
  have hwin : b.win w = { s.win w with
      state := .frozen, frozenFrom := some from_, quiesceMode := none
      groups := g.failed line :: (s.win w).groups.tail
      stats := { (s.win w).stats with
        refused := (s.win w).stats.refused + BitVec.ofNat 32 (s.holds.filter fun h : Held => h.window == w).length } } := by
    rw [hb, State.win_refuseHeld, hfaulting, hkeptHolds, List.countP_eq_length_filter]
  have hslots : b.slots = s.slots := by rw [hb, (SameQueues.refuseHeld a w).slots, hkeptSlots]
  have hareas : b.areas = s.areas := by rw [hb, (SameQueues.refuseHeld a w).areas, hkeptAreas]
  have hholds : b.holds = s.holds.filter fun h => h.window != w := by
    rw [hb, State.holds_refuseHeld (by rwa [hkeptHolds]), hkeptHolds]
  have hgroups : (b.win w).groups = g.failed line :: (s.win w).groups.tail := by rw [hwin]
  have harea : (b.win w).area = (s.win w).area := by rw [hwin]
  have hopened : (b.win w).groups.filter (fun y : Group => y.state == .opened) =
      (s.win w).groups.tail.filter fun y : Group => y.state == .opened := by
    rw [hgroups, List.filter_cons_of_neg (by simp [Group.failed])]
  have hbroke := State.broke (s := b) (by rwa [hgroups]) .freeze none
  rw [hopened] at hbroke
  rw [hfrozen]
  refine ⟨?_, honly.trans (.breakOpen _ _ _), ?_, ?_, ?_, fun u => ?_, ?_, ?_⟩
  · have hfirst : (g.failed line).brokenIfOpen = g.failed line := if_neg (by simp [Group.failed])
    rw [State.win_breakOpen_shaped (by rwa [hgroups]), List.countP_eq_length_filter, hopened, hwin, List.map_cons, hfirst]
  · rw [hbroke.slots, hslots]
  · rw [hbroke.areas, harea, hslots, State.area_of_areas hareas, State.setArea, hareas, State.setArea]
  · rw [hbroke.holds, hholds, harea, hslots]
    refine List.map_congr_left fun h hh => ?_
    rw [honly h.window (by simpa using (List.mem_filter.1 hh).2)]
  · have hsame : Tells [] s a := .of_transit hkeptTransit
    have htells : Tells ((a.holds.filter fun h => h.window == w).map Held.told) s (b.breakOpen w .freeze none) := by
      rw [← List.append_nil (List.map _ _), ← List.nil_append (List.map _ _), hb]
      refine (hsame.trans (State.refusals_tell .windowState _ (hsame.oneRecordEach hone))).trans (.of_transit ?_)
      rw [← State.refuseHeld, ← hb]
      exact hbroke.transit
    rw [htells u, hkeptHolds]
    exact congrArg (Option.map · _) (funext fun r => r.told_refused _)
  · have hevents : a.eventUnit = (s.post w (evGroupFaulted w (g.failed line) line)).eventUnit := by
      rw [ha]
      exact s.eventUnit_faulting w g line
    rw [hbroke.eventUnit, List.foldl_append, List.foldl_append]
    refine posts_eventUnit _ ?_ ?_
    · rw [hwin, State.win_posts, State.win_posts]
    · rw [hb, State.refuseHeld, State.eventUnit_refusals (w := w) (fun h hh => by simpa using (List.mem_filter.1 hh).2), hkeptHolds]
      refine posts_eventUnit _ ?_ hevents
      rw [hfaulting, State.win_posts]
  · rw [← hfrozen]
    exact same_closed.trans (same_closed.setOldest s w _) (same_closed.freezeWindow _ w _ line)

end

/-! ### A drain failure (R114, R115) -/

section
variable {s t u : State} {c : CreditNo} {w : WIdx} {g y : Group} {es : List Entry} {line : Line} {from_ : FrozenFrom}

/-- A state in which the oldest record of window `w`, its failed write answered, alone differs from `s`, but for credit `c` and the slots. -/
structure Failing (w : WIdx) (c : CreditNo) (y : Group) (es : List Entry) (s u : State) : Prop where
  win : u.win w = { s.win w with groups := y :: (s.win w).groups.tail }
  only : OnlyAt w s u
  eventUnit : u.eventUnit = s.eventUnit
  holds : u.holds = s.holds
  transit : u.transit = s.transit
  credits : u.credits = s.credits.set c.val .free c.isLt
  slots : u.slots = es
  areas : u.areas = s.areas
  same : CreditFrame s u

/-- The parts of O32's conclusion that do not depend on the response. -/
theorem Failing.freezes (h : Failing w c y es s u) (hlaw : s.tableLaw) (hone : s.oneRecordEach) (hg : s.oldest w = some g)
    (hlive : (s.win w).state = .online ∧ from_ = .online ∨ (s.win w).state = .quiescing ∧ from_ = .quiescing)
    (hcount : ∀ l, (es.countP fun e => e.ofGroups w l) = s.slots.countP fun e => e.ofGroups w l) :
    let t := u.frozenBehind w y line
    let rest := (s.win w).groups.tail
    let held := s.holds.filter fun h : Held => h.window == w
    let opened := rest.filter fun y : Group => y.state == .opened
    t.win w = { s.win w with
        state := .frozen, frozenFrom := some from_, quiesceMode := none
        groups := y.failed line :: rest.map Group.brokenIfOpen
        stats := { (s.win w).stats with
          refused := (s.win w).stats.refused + BitVec.ofNat 32 held.length
          broken := (s.win w).stats.broken + BitVec.ofNat 32 opened.length } } ∧
      OnlyAt w s t ∧ t.slots = es.filter (fun e => !e.ofGroups w opened) ∧
      t.areas = (s.setArea (s.win w).area { s.area (s.win w).area with
        used := (s.area (s.win w).area).used - s.slots.countP fun e => e.ofGroups w opened }).areas ∧
      t.holds = ((s.holds.filter fun h : Held => h.window != w).map fun h : Held =>
        if 0 < (s.slots.countP fun e => e.ofGroups w opened) ∧ h.reason = .areaWait ∧
          (s.win h.window).joined (s.win w).area = true then { h with pending := true } else h) ∧
      (∀ v, t.rcd v = (s.rcd v).map fun r => r.refusedFor held) ∧
      t.eventUnit = (([evGroupFaulted w (y.failed line) line] ++
        (held.map fun h => evWriteRefused w h.source .windowState h.line) ++
        (opened.map fun y => evGroupBroken w y .freeze none)).foldl (fun u e => u.post w e) s).eventUnit ∧
      t.credits = s.credits.set c.val .free c.isLt ∧ CreditFrame s t := by
  have hrcd : ∀ v, u.rcd v = s.rcd v := fun v => by rw [State.rcd, h.transit]; rfl
  have hshape : Machine.shaped (s.win w).groups := (hlaw.1 w).1
  have hgroups : (u.win w).groups.tail = (s.win w).groups.tail := by rw [h.win]; rfl
  have harea : (u.win w).area = (s.win w).area := by rw [h.win]
  have hfroze : Froze w y line from_ u (u.frozenBehind w y line) := by
    refine State.froze ?_ (by rw [h.holds]; exact hlaw.2.1.1) ?_ (by rw [h.win]; exact hlive)
    · rw [hgroups]
      rw [State.groups_of_oldest hg] at hshape
      exact hshape.setHead (Nat.zero_le _)
    · intro t v
      rw [hrcd, hrcd]
      exact hone t v
  refine ⟨?_, h.only.trans hfroze.only, ?_, ?_, ?_, fun v => ?_, ?_, (sameOutsideGroups_credits hfroze.same).trans h.credits,
    h.same.trans (.of_same hfroze.same)⟩
  · rw [hfroze.win, hgroups, h.win, h.holds]
  · rw [hfroze.slots, hgroups, h.slots]
  · rw [hfroze.areas, hgroups, h.slots, hcount, harea, State.area_of_areas h.areas, State.setArea, h.areas, State.setArea]
  · rw [hfroze.holds, hgroups, h.slots, hcount, h.holds, harea]
    refine List.map_congr_left fun y hy => ?_
    rw [h.only y.window (by simpa using (List.mem_filter.1 hy).2)]
  · rw [hfroze.rcd, hrcd, h.holds]
  · rw [hfroze.eventUnit, hgroups, h.holds]
    exact posts_eventUnit _ (by rw [h.win]) h.eventUnit

theorem State.drainFailure_off (hg : s.oldest w = some g) (hsoft : s.softReset = false) (line : Line) :
    s.drainFailure w line = s.frozenBehind w g line := by
  have hfrozen : (s.frozenBehind w g line).softReset = false := by
    rw [(AtWindow.frozenBehind s g line).softReset, hsoft]
  rw [State.drainFailure, hg]
  exact if_neg (by rw [Bool.not_eq_true]; exact hfrozen)

theorem State.entryAnswered_failed {res : Result} (hres : res ≠ .done) (s : State) (w : WIdx) (g : Group) (e : Entry) :
    s.entryAnswered w g e res = s.entryFailed w g e := by
  cases res with
  | done => exact absurd rfl hres
  | refused => rfl
  | failed => rfl

theorem State.markerAnswered_failed {res : Result} (hres : res ≠ .done) (s : State) (w : WIdx) (g : Group) (m : MarkerConfig) :
    s.markerAnswered w g m res = (s.setOldest w { g with outstanding := 0 }).drainFailure w ((s.win w).markerLine m) := by
  cases res with
  | done => exact absurd rfl hres
  | refused => rfl
  | failed => rfl

end

end Sys2Proof.Machine
end

section
/-! O32. Drain failures (R35, R109, R114 to R116), and that of a marker write during a soft reset (R121, R126). -/

namespace Sys2Proof.Machine

section
variable {s t u : State} {c : CreditNo} {w : WIdx} {g y : Group} {e : Entry} {line : Line} {from_ : FrozenFrom}

/-! ### The response of a failed write -/

theorem Failing.entry (s : State) (w : WIdx) (c : CreditNo) (g : Group) (hwf : slotsWf s.slots = true) (he : e ∈ s.slots) :
    Failing w c { g with outstanding := g.outstanding - 1 }
      (s.slots.map fun y : Entry => if y = e then { e with state := .failed } else y) s ((s.setCredit c .free).failEntry w g e) where
  win := State.win_setOldest _ _ _
  only := OnlyAt.setOldest (s := _) _
  eventUnit := rfl
  holds := rfl
  transit := rfl
  credits := rfl
  slots := map_slot_eq hwf he fun y => { y with state := .failed }
  areas := rfl
  same := (CreditFrame.setCredit s c .free).trans
    ((CreditFrame.of_same (same_closed.mapSlots _ _ fun x => by split <;> exact ⟨rfl, rfl⟩)).trans
      (.of_same (same_closed.setOldest _ w _)))

theorem Failing.marker (s : State) (w : WIdx) (c : CreditNo) (g : Group) :
    Failing w c { g with outstanding := 0 } s.slots s ((s.setCredit c .free).setOldest w { g with outstanding := 0 }) where
  win := State.win_setOldest _ _ _
  only := OnlyAt.setOldest (s.setCredit c .free) _
  eventUnit := rfl
  holds := rfl
  transit := rfl
  credits := rfl
  slots := rfl
  areas := rfl
  same := (CreditFrame.setCredit s c .free).trans (.of_same (same_closed.setOldest _ w _))

/-- An entry that fails stays in its group. -/
theorem countP_failed (l : List Entry) (e : Entry) (w : WIdx) (gs : List Group) :
    ((l.map fun y : Entry => if y = e then { e with state := .failed } else y).countP fun e => e.ofGroups w gs) =
      l.countP fun e => e.ofGroups w gs := by
  rw [List.countP_map]
  refine congrArg (List.countP · l) (funext fun y => ?_)
  by_cases hy : y = e
  · rw [Function.comp_apply, if_pos hy, hy]
    rfl
  · rw [Function.comp_apply, if_neg hy]

theorem Failing.softReset_frozenBehind {es : List Entry} (h : Failing w c y es s u) :
    (u.frozenBehind w y line).softReset = s.softReset := (AtWindow.frozenBehind u y line).softReset.trans h.same.softReset

/-- The response for a failed write of a DRAINING group's entry. -/
theorem State.drainResponse_entryFailed {res : Result} (hres : res ≠ .done) (hsoft : s.softReset = false) (hg : s.oldest w = some g)
    (he : e ∈ s.slots) (heg : e.ofGroup w g.number = true)
    (hone : ∀ y ∈ s.slots, y.ofGroup w g.number = true → y.sequence = e.sequence → y = e) (hd : g.state = .draining) :
    s.drainResponse (.entry w g.number e.sequence) res =
      (s.failEntry w g e).frozenBehind w { g with outstanding := g.outstanding - 1 } e.line := by
  have hold : (s.failEntry w g e).oldest w = some { g with outstanding := g.outstanding - 1 } := State.oldest_setOldest _
  have hsoft' : (s.failEntry w g e).softReset = false := hsoft
  rw [State.drainResponse, State.entryResponse_eq hg he heg hone, State.entryAnswered_failed hres, State.entryFailed]
  exact (if_pos hd).trans (State.drainFailure_off hold hsoft' e.line)

/-- The response for the failed marker write of a MARKING group. -/
theorem State.drainResponse_markerFailed {res : Result} {m : MarkerConfig} (hres : res ≠ .done) (hg : s.oldest w = some g)
    (hm : (s.win w).marker = some m) (hmarking : g.state = .marking) :
    s.drainResponse (.marker w g.number) res =
      (s.setOldest w { g with outstanding := 0 }).drainFailure w ((s.win w).markerLine m) := by
  rw [State.drainResponse, State.markerResponse, hg, hm]
  exact (if_pos ⟨hmarking, rfl⟩).trans (State.markerAnswered_failed hres s w g m)

/-- DONE for another write of a FAULTED group frees its entry (R109, R116). -/
theorem State.entryDone_faulted (s : State) (hf : g.state = .faulted) (hwf : slotsWf s.slots = true) (he : e ∈ s.slots) :
    s.entryDone w g e = ((({ s with slots := s.slots.filter fun y => y != e } : State).lowerUsed (s.win w).area 1).setOldest w
      { g with entryCount := g.entryCount - 1, acked := g.acked + 1, outstanding := g.outstanding - 1 }).areaTrigger
        (s.win w).area := by
  have hafter : (s.freeAcked w g e).afterAck w = s.freeAcked w g e := by
    rw [State.afterAck, State.oldest_freeAcked]
    exact if_neg fun h => by
      rw [show g.ackedOnce.state = .faulted from hf] at h
      cases h.1
  rw [State.entryDone, hafter, State.freeAcked, filter_slot_ne hwf he]

/-- A failed write of a FAULTED group fails its entry (R116). -/
theorem State.entryFailed_faulted (s : State) (hf : g.state = .faulted) (hwf : slotsWf s.slots = true) (he : e ∈ s.slots) :
    s.entryFailed w g e =
      ({ s with slots := s.slots.map fun y : Entry => if y = e then { e with state := .failed } else y } : State).setOldest w
        { g with outstanding := g.outstanding - 1 } := by
  rw [State.entryFailed, State.failEntry, map_slot_eq hwf he fun y => { y with state := .failed }]
  exact if_neg (by rw [hf]; decide)

end

/-! ### A failure during a soft reset (R121, R126) -/

section
variable {s : State} {c : CreditNo} {w : WIdx} {g : Group} {line : Line}

/-- Window `w`'s record replaced by `x`, after these posts. -/
def State.edited (s : State) (w : WIdx) (l : List EventBody) (x : Window) : State := (l.foldl (fun u e => u.post w e) s).setWin w x

theorem State.setOldest_eq_edited (s : State) (w : WIdx) (y : Group) :
    s.setOldest w y = s.edited w [] { s.win w with groups := y :: (s.win w).groups.tail } := rfl

theorem State.modWin_edited (s : State) (w : WIdx) (l : List EventBody) (x : Window) (f : Window → Window) :
    (s.edited w l x).modWin w f = s.edited w l (f x) := by
  simp [State.edited, State.modWin]

/-- A post reads nothing of the window but its event enables. -/
theorem State.post_edited {x : Window} (hx : x.enables = (s.win w).enables) (l : List EventBody) (e : EventBody) :
    (s.edited w l x).post w e = s.edited w (l ++ [e]) x := by
  have hpost : ∀ u : State, x.enables = (u.win w).enables → (u.setWin w x).post w e = (u.post w e).setWin w x := fun u hu => by
    have hoffer : (u.setWin w x).offer e = (u.offer e).setWin w x := by
      rw [State.offer, State.offer, State.setWin_events]
      split <;> rfl
    rw [State.post, State.post, State.win_setWin_same, hu, hoffer]
    split <;> rfl
  rw [State.edited, hpost _ (by rw [State.win_posts, hx]), State.edited, List.foldl_append]
  rfl

theorem State.edited_edited {x : Window} (hx : x.enables = (s.win w).enables) (l m : List EventBody) (y : Window) :
    (s.edited w l x).edited w m y = s.edited w (l ++ m) y := by
  induction m generalizing l with
  | nil => simp [State.edited]
  | cons e m ih =>
    have hcons : (s.edited w l x).edited w (e :: m) y = ((s.edited w l x).post w e).edited w m y := rfl
    rw [hcons, State.post_edited hx, ih, List.append_assoc]
    rfl

theorem Credit.orphaned_of_other {x : Credit} {n : Byte} (hmarker : x ≠ .drain (.marker w n))
    (hentry : ∀ q, x ≠ .drain (.entry w n q)) : x.orphaned w n = x := by
  match x with
  | .free => rfl
  | .forwarder _ => rfl
  | .drain (.orphan _) => rfl
  | .drain (.entry v k q) => exact if_neg fun ⟨hv, hk⟩ => hentry q (by rw [hv, hk])
  | .drain (.marker v k) => exact if_neg fun ⟨hv, hk⟩ => hmarker (by rw [hv, hk])

theorem State.post_setCredit (s : State) (c : CreditNo) (x : Credit) (w : WIdx) (e : EventBody) :
    (s.setCredit c x).post w e = (s.post w e).setCredit c x := by
  have hoffer : (s.setCredit c x).offer e = (s.offer e).setCredit c x := by
    rw [State.offer, State.offer, State.setCredit_events]
    split <;> rfl
  rw [State.post, State.post, State.win_setCredit, hoffer]
  split <;> rfl

theorem State.freeGroupSlots_none {n : Byte} (h : ∀ e ∈ s.slots, e.ofGroup w n = false) : s.freeGroupSlots w n = s := by
  rw [State.freeGroupSlots]
  exact if_pos (List.countP_eq_zero.2 fun e he => by rw [h e he]; decide)

theorem State.mapCredits_id {f : Credit → Credit} (h : ∀ c, f (s.credit c) = s.credit c) : s.mapCredits f = s := by
  have hcredits : (Vector.ofFn fun c : CreditNo => f s.credits[c]) = s.credits := by
    ext i hi
    simpa [State.credit] using h ⟨i, hi⟩
  rw [State.mapCredits, hcredits]

/-- The abandonment of a group without entries, drain writes or LATE marker, in a window without held writes. -/
theorem State.abandoned_bare (hslots : ∀ e ∈ s.slots, e.ofGroup w g.number = false)
    (hcredits : ∀ c, (s.credit c).orphaned w g.number = s.credit c) (hpending : g.pendingMarker = none)
    (hheld : ∀ h ∈ s.holds, h.window ≠ w) :
    s.abandoned w g = ((s.post w (evGroupDiscarded w g .abandon)).bumpDiscarded w).modWin w fun x =>
      { x with groups := x.groups.tail } := by
  rw [State.abandoned, State.freeGroupSlots_none hslots, State.mapCredits_id hcredits, State.answerPending_none hpending]
  refine State.windowTrigger_none fun h hh => hheld h ?_
  rwa [State.modWin_holds, State.bumpDiscarded, State.modWin_holds, State.post_holds] at hh

/-- The freeze of a window without held writes and without another group. -/
theorem State.frozenBehind_bare (hgroups : (s.win w).groups = [g]) (hheld : ∀ h ∈ s.holds, h.window ≠ w) :
    s.frozenBehind w g line = s.faulting w g line := by
  have hrefused : s.freezing w g line = s.faulting w g line := by
    rw [State.freezing_eq]
    refine State.refuseHeld_none ?_
    rw [(s.faulting_kept w g line).2.2.1]
    exact hheld
  rw [State.frozenBehind_eq, hrefused]
  refine State.breakOpen_none (fun y hy => ?_) _ _
  rw [State.youngest, State.win_faulting, hgroups] at hy
  obtain rfl : g.failed line = y := by simpa using hy
  simp [Group.failed]

/-- A drain failure of the last group of a QUIESCING window during a soft reset: the group is abandoned, and the quiesce ends. -/
theorem State.drainFailure_soft (hsoft : s.softReset = true) (hgroups : (s.win w).groups = [g]) (hstate : (s.win w).state = .quiescing)
    (hfrom : (s.win w).frozenFrom = none) (hslots : ∀ e ∈ s.slots, e.ofGroup w g.number = false)
    (hcredits : ∀ c, (s.credit c).orphaned w g.number = s.credit c) (hpending : g.pendingMarker = none)
    (hheld : ∀ h ∈ s.holds, h.window ≠ w) :
    s.drainFailure w line = (((s.post w (evGroupFaulted w g line)).post w (evGroupDiscarded w g .abandon)).post w
      (evWindowOffline w)).setWin w
        { s.win w with
          state := .offline, quiesceMode := none, groups := []
          stats := { (s.win w).stats with discarded := (s.win w).stats.discarded + 1 } } := by
  have hold : s.oldest w = some g := by rw [State.oldest, hgroups]; rfl
  have hfaulting : (s.faulting w g line).softReset = true := by
    rw [State.faulting, State.post_softReset]
    exact hsoft
  obtain ⟨hkeptSlots, -, hkeptHolds, -⟩ := s.faulting_kept w g line
  obtain ⟨b, hb⟩ : ∃ b, b = (s.faulting w g line).modWin w Window.unfreeze := ⟨_, rfl⟩
  have hedited : b = s.edited w [evGroupFaulted w g line] { s.win w with quiesceMode := some .drop, groups := [g.failed line] } := by
    have hfreeze : ({ s.win w with groups := g.failed line :: (s.win w).groups.tail } : Window).freeze.unfreeze =
        { s.win w with quiesceMode := some .drop, groups := [g.failed line] } := by
      simp [Window.freeze, Window.unfreeze, hstate, hfrom, hgroups]
    rw [hb, State.faulting, State.setOldest_eq_edited, State.modWin_edited, State.post_edited, State.modWin_edited, hfreeze]
    · rfl
    · exact Window.freeze_enables _
  have hwin : b.win w = { s.win w with quiesceMode := some .drop, groups := [g.failed line] } := by
    rw [hedited, State.edited, State.win_setWin_same]
  have hfailure : s.drainFailure w line = b.abandonFaulted w := by
    have heq : s.drainFailure w line = if (s.frozenBehind w g line).softReset then
        ((s.frozenBehind w g line).modWin w Window.unfreeze).abandonFaulted w else s.frozenBehind w g line := by
      rw [State.drainFailure, hold]
      rfl
    rw [heq, State.frozenBehind_bare hgroups hheld, hb]
    exact if_pos hfaulting
  have hcredit : ∀ c, b.credit c = s.credit c := fun c => by
    have hkept : b.credits = s.credits := by simp [hb, State.faulting]
    rw [State.credit, hkept]
    rfl
  have habandoned : b.abandoned w (g.failed line) =
      ((b.post w (evGroupDiscarded w g .abandon)).bumpDiscarded w).modWin w fun x => { x with groups := x.groups.tail } :=
    State.abandoned_bare (s := b) (g := g.failed line) (by rw [hb, State.modWin_slots, hkeptSlots]; exact hslots)
      (fun c => by rw [hcredit]; exact hcredits c) hpending (by rw [hb, State.modWin_holds, hkeptHolds]; exact hheld)
  have hbold : b.oldest w = some (g.failed line) := by rw [State.oldest, hwin]; rfl
  have hidle : ∀ a : State, (a.win w).groups = [] → (a.win w).state = .quiescing →
      a.drainTake w = (a.modWin w fun x => { x with state := .offline, quiesceMode := none }).post w (evWindowOffline w) :=
    fun a hnil hq => by
      rw [State.drainTake_idle fun y hy => by simp [State.oldest, hnil] at hy]
      exact if_pos ⟨hq, hnil⟩
  rw [hfailure, State.abandonFaulted_eq hbold rfl, habandoned,
    hidle _ (by simp [State.bumpDiscarded, hwin]) (by simp [State.bumpDiscarded, hwin, hstate]), hedited, State.bumpDiscarded,
    State.post_edited, State.modWin_edited, State.modWin_edited, State.modWin_edited, State.post_edited]
  · rfl
  · rfl
  · rfl

/-- The group whose marker write has failed, the window's last and without entries, other drain writes or a LATE marker. -/
theorem State.markerFailure_soft (hsoft : s.softReset = true) (hgroups : (s.win w).groups = [g])
    (hstate : (s.win w).state = .quiescing) (hfrom : (s.win w).frozenFrom = none)
    (hslots : ∀ e ∈ s.slots, e.ofGroup w g.number = false)
    (hothers : ∀ d : CreditNo, d ≠ c → s.credit d ≠ .drain (.marker w g.number) ∧ ∀ q, s.credit d ≠ .drain (.entry w g.number q))
    (hpending : g.pendingMarker = none) (hheld : ∀ h ∈ s.holds, h.window ≠ w) :
    ((s.setCredit c .free).setOldest w { g with outstanding := 0 }).drainFailure w line =
      ((((s.post w (evGroupFaulted w g line)).post w (evGroupDiscarded w g .abandon)).post w (evWindowOffline w)).setCredit c
        .free).setWin w { s.win w with
          state := .offline, quiesceMode := none, groups := []
          stats := { (s.win w).stats with discarded := (s.win w).stats.discarded + 1 } } := by
  obtain ⟨u, hu⟩ : ∃ u, u = (s.setCredit c .free).setOldest w { g with outstanding := 0 } := ⟨_, rfl⟩
  have hwin : u.win w = { s.win w with groups := [{ g with outstanding := 0 }] } := by
    rw [hu, State.win_setOldest, State.win_setCredit, hgroups]
    rfl
  have hcredits : ∀ d, (u.credit d).orphaned w g.number = u.credit d := fun d => by
    rw [hu, State.credit_setOldest]
    by_cases hd : d = c
    · rw [hd, State.credit_setCredit_same]
      rfl
    · obtain ⟨hmarker, hentry⟩ := hothers d hd
      rw [State.credit_setCredit_other _ _ hd]
      exact Credit.orphaned_of_other hmarker hentry
  have hfailure := State.drainFailure_soft (s := u) (w := w) (g := { g with outstanding := 0 }) (line := line)
    (by rw [hu]; exact hsoft) (by rw [hwin]) (by rw [hwin]; exact hstate) (by rw [hwin]; exact hfrom) (by rw [hu]; exact hslots)
    hcredits hpending (by rw [hu]; exact hheld)
  have hposts := State.edited_edited (s := s.setCredit c .free) (w := w) (x := u.win w) (by rw [hwin]; rfl) []
    [evGroupFaulted w g line, evGroupDiscarded w g .abandon, evWindowOffline w]
  have hedited : u = (s.setCredit c .free).edited w [] (u.win w) := by
    rw [hu, State.win_setOldest]
    rfl
  rw [← hedited] at hposts
  rw [← hu, hfailure]
  refine (hposts _).trans ?_
  rw [hwin, ← State.post_setCredit, ← State.post_setCredit, ← State.post_setCredit]
  rfl

end

/-- Settles O32: what a freeze leaves, the responses of a FAULTED group's other writes, and the abandonment during a soft reset. -/
theorem drainFailureFreezes : Obligations.DrainFailureFreezes := by
  refine ⟨?_, ?_, ?_⟩
  · intro s c data res w g from_ hreset hsoft hres hg hlaw hone hlive
    dsimp only
    constructor
    · intro e he hc hd hunique hwf heg
      have hfailing := Failing.entry s w c g hwf he
      refine ⟨_, ?_, hfailing.freezes (line := e.line) hlaw hone hg hlive (countP_failed s.slots e w)⟩
      rw [exec_downResponse_drain hreset hc, State.drainResponse_entryFailed (s := s.setCredit c .free) hres hsoft hg he heg hunique hd,
        State.softResetCheck_off (hfailing.softReset_frozenBehind.trans hsoft)]
    · intro m hm hc hmarking
      have hfailing := Failing.marker s w c g
      refine ⟨_, ?_, hfailing.freezes (line := (s.win w).markerLine m) hlaw hone hg hlive fun _ => rfl⟩
      rw [exec_downResponse_drain hreset hc, State.drainResponse_markerFailed (s := s.setCredit c .free) hres hg hm hmarking,
        State.drainFailure_off (State.oldest_setOldest _) (hfailing.same.softReset.trans hsoft), State.win_setCredit,
        State.softResetCheck_off (hfailing.softReset_frozenBehind.trans hsoft)]
  · intro s c data res w g e hreset hc hg hf hunique hwf he heg
    have hresponse : (s.setCredit c .free).drainResponse (.entry w g.number e.sequence) res =
        (s.setCredit c .free).entryAnswered w g e res := State.entryResponse_eq (s := s.setCredit c .free) hg he heg hunique res
    constructor
    · rintro rfl
      rw [exec_downResponse_drain hreset hc, hresponse, State.entryAnswered, State.entryDone_faulted (s.setCredit c .free) hf hwf he,
        State.softResetCheck_of_group (w := w)]
      · rfl
      · rw [State.win_areaTrigger, State.win_setOldest]
        simp
    · intro hres
      rw [exec_downResponse_drain hreset hc, hresponse, State.entryAnswered_failed hres, State.entryFailed_faulted (s.setCredit c .free) hf hwf he,
        State.softResetCheck_of_group (w := w)]
      · rfl
      · rw [State.win_setOldest]
        simp
  · intro s c data res w g m hreset hsoft hres hlaw hstate hgroups hmarking hm hc ⟨v, hv, hgv⟩ hslots hpending hothers
    obtain ⟨hwin, ⟨-, hheld⟩, -⟩ := hlaw
    obtain ⟨-, -, hfrom, -⟩ := hwin w
    have hg : s.oldest w = some g := by rw [State.oldest, hgroups]; rfl
    have hnone : (s.win w).frozenFrom = none := by
      rw [← Option.not_isSome_iff_eq_none, hfrom, hstate]
      decide
    have hfailure := State.markerFailure_soft (line := (s.win w).markerLine m) hsoft hgroups hstate hnone hslots hothers hpending
      fun h hh heq => by
        have hon := hheld h hh
        rw [heq, hstate] at hon
        cases hon
    rw [exec_downResponse_drain hreset hc, State.drainResponse_markerFailed (s := s.setCredit c .free) hres hg hm hmarking,
      State.win_setCredit, hfailure, State.softResetCheck_of_group (w := v)]
    · simp only [State.setCredit, State.post_credits]
      rfl
    · rw [State.win_setWin_other _ _ hv, State.win_setCredit, State.win_post, State.win_post, State.win_post]
      exact hgv

end Sys2Proof.Machine
end

section
/-! O58. SOFT_RESET without a window ONLINE or FROZEN, and the DONE that ends a soft reset (R40, R184, R186). -/

namespace Sys2Proof.Machine

section
variable {s t u : State} {c : CreditNo} {w : WIdx} {g : Group}

/-! ### The command and the end (R184, R186) -/

theorem exec_softReset (hport : s.portTakes) (hsoft : s.softReset = false) (o q : List WIdx) :
    exec (.softReset o q) s = .next ((s.beginSoftReset o q).withReply [0x01#8]) := by
  rw [exec_portAnswer (c := .softReset _ _) hport hsoft rfl (fun _ h => by cases h) rfl]
  rfl

theorem State.beginSoftReset_eq (s : State) (o q : List WIdx) :
    s.beginSoftReset o q = (State.softSteps { s with softReset := true } o q).softResetCheck := rfl

theorem State.allQueuesEmpty_iff : s.allQueuesEmpty = true ↔ ∀ w, (s.win w).groups = [] := by
  simp [State.allQueuesEmpty]

theorem State.softResetCheck_ends (hsoft : s.softReset = true) (h : ∀ w, (s.win w).groups = []) :
    s.softResetCheck = s.endSoftReset := if_pos ⟨hsoft, State.allQueuesEmpty_iff.2 h⟩

/-- The end of a soft reset reads nothing of the group queues, the slots and the event unit (R186). -/
theorem State.endSoftReset_eq (s : State) : s.endSoftReset =
    { s with
      windows := Vector.replicate 16 Window.zero, areas := Vector.replicate 8 Area.zero, slots := [], turn := none
      events := [⟨0, evResetDone, 0⟩], nextSeq := 1, lost := 0, softReset := false } := rfl

/-! ### No window ONLINE or FROZEN -/

/-- A QUIESCING window takes quiesce mode DROP (R184 step 2). -/
def Window.dropping (x : Window) : Window := if x.state = .quiescing then { x with quiesceMode := some .drop } else x

theorem Window.dropping_groups (x : Window) : x.dropping.groups = x.groups := by
  unfold Window.dropping
  split <;> rfl

theorem Window.dropping_state (x : Window) : x.dropping.state = x.state := by
  unfold Window.dropping
  split <;> rfl

theorem State.softQuiesce_of_not_online (h : (s.win w).state ≠ .online) : s.softQuiesce w = s.modWin w Window.dropping := by
  have hsame : (s.win w).state ≠ .quiescing → s = s.modWin w Window.dropping := fun hq => by
    have hset : s.windows.set w.val (s.win w) w.isLt = s.windows := by simp [State.win]
    rw [State.modWin, Window.dropping, if_neg hq, State.setWin, hset]
  rw [State.softQuiesce]
  split
  · next hon => exact absurd hon h
  · next hq => rw [State.modWin, State.modWin, Window.dropping, if_pos hq]
  · next hf => exact hsame (by rw [hf]; decide)
  · next ho => exact hsame (by rw [ho]; decide)
  · next hu => exact hsame (by rw [hu]; decide)

/-- One change at each window of a list that names none twice. -/
theorem State.win_modWins (f : Window → Window) (l : List WIdx) (hl : l.Nodup) (s : State) (v : WIdx) :
    ((l.foldl (fun s w => s.modWin w f) s).win v = if v ∈ l then f (s.win v) else s.win v) := by
  induction l generalizing s with
  | nil => simp
  | cons w l ih =>
    obtain ⟨hw, hl⟩ := List.nodup_cons.1 hl
    rw [List.foldl_cons, ih hl, State.win_modWin]
    by_cases hv : v = w
    · rw [if_neg (by rwa [hv]), if_pos hv, if_pos (by simp [hv]), hv]
    · simp [hv]

theorem State.modWins_eq (f : Window → Window) (l : List WIdx) (s : State) :
    l.foldl (fun s w => s.modWin w f) s = { s with windows := (l.foldl (fun s w => s.modWin w f) s).windows } := by
  induction l generalizing s with
  | nil => rfl
  | cons w l ih =>
    rw [List.foldl_cons, ih]
    rfl

/-- Without a window ONLINE or FROZEN the two steps change the QUIESCING windows alone. -/
theorem State.softSteps_quiet (h : ∀ w : WIdx, (s.win w).state ≠ .online ∧ (s.win w).state ≠ .frozen) (o q : List WIdx) :
    s.softSteps o q = (visitOrder q).foldl (fun s w => s.modWin w Window.dropping) s := by
  have habandon : ∀ l : List WIdx, l.foldl State.softAbandon s = s := fun l => by
    induction l with
    | nil => rfl
    | cons w l ih =>
      have hone : s.softAbandon w = s := if_neg (h w).2
      rw [List.foldl_cons, hone, ih]
  have hquiesce : ∀ (l : List WIdx) (u : State), (∀ w : WIdx, (u.win w).state ≠ .online) →
      l.foldl State.softQuiesce u = l.foldl (fun s w => s.modWin w Window.dropping) u := fun l => by
    induction l with
    | nil => exact fun _ _ => rfl
    | cons w l ih =>
      intro u hu
      rw [List.foldl_cons, List.foldl_cons, State.softQuiesce_of_not_online (hu w)]
      refine ih _ fun v => ?_
      rw [State.win_modWin]
      split
      · next hv => rw [hv, Window.dropping_state]; exact hu w
      · exact hu v
  rw [State.softSteps, habandon, hquiesce _ _ fun w => (h w).1]

/-- Without a QUIESCING window either they change nothing. -/
theorem State.softSteps_none
    (h : ∀ w : WIdx, (s.win w).state ≠ .online ∧ (s.win w).state ≠ .frozen ∧ (s.win w).state ≠ .quiescing) (o q : List WIdx) :
    s.softSteps o q = s := by
  have hone : ∀ w, s.modWin w Window.dropping = s := fun w => by
    have hset : s.windows.set w.val (s.win w) w.isLt = s.windows := by simp [State.win]
    rw [State.modWin, Window.dropping, if_neg (h w).2.2, State.setWin, hset]
  rw [State.softSteps_quiet fun w => ⟨(h w).1, (h w).2.1⟩]
  induction visitOrder q with
  | nil => rfl
  | cons w l ih => rw [List.foldl_cons, hone, ih]

theorem State.win_softSteps_quiet (h : ∀ w : WIdx, (s.win w).state ≠ .online ∧ (s.win w).state ≠ .frozen) (o q : List WIdx)
    (w : WIdx) : (s.softSteps o q).win w = (s.win w).dropping := by
  rw [State.softSteps_quiet h, State.win_modWins _ _ (nodup_visitOrder q), if_pos (mem_visitOrder q w)]

/-! ### The DONE that ends a soft reset (R112, R186) -/

/-- The last group of all is published, and the soft reset ends. -/
theorem exec_markerDone_ends (data : LineData) (hreset : s.resetAsserted = false) (hsoft : s.softReset = true)
    (hc : s.credit c = .drain (.marker w g.number)) (hgroups : (s.win w).groups = [g]) (hmarking : g.state = .marking)
    (hm : (s.win w).marker ≠ none) (hstate : (s.win w).state = .quiescing) (hothers : ∀ v : WIdx, v ≠ w → (s.win v).groups = [])
    (hpending : g.pendingMarker = none) (hholds : s.holds = []) :
    exec (.downstreamResponse c .done data) s =
      .next { s with credits := s.credits.set c.val .free c.isLt : State }.endSoftReset := by
  obtain ⟨m, hm⟩ := Option.ne_none_iff_exists'.1 hm
  have hg : (s.setCredit c .free).oldest w = some g := by rw [State.oldest, State.win_setCredit, hgroups]; rfl
  obtain ⟨t, ht⟩ : ∃ t : State, t = ((s.setCredit c .free).setOldest w { g with outstanding := 0 }).publish w
    { g with outstanding := 0 } := ⟨_, rfl⟩
  have hpublishes := (Acknowledged.marker s w c g).publishes (left := []) (.inr hstate) (.inl ⟨by rw [hgroups]; rfl, rfl⟩)
  rw [← ht] at hpublishes
  obtain ⟨hwin, honly, -, hcredits, hmarks, htransit, -, -, hframe⟩ := hpublishes
  have hresponse : (s.setCredit c .free).drainResponse (.marker w g.number) .done = t := by
    rw [ht, State.drainResponse, State.markerResponse, hg, State.win_setCredit, hm]
    exact if_pos ⟨hmarking, rfl⟩
  have hempty : ∀ v, (t.win v).groups = [] := fun v => by
    by_cases hv : v = w
    · rw [hv, hwin]
    · rw [honly v hv]
      exact hothers v hv
  rw [exec_downResponse_drain hreset hc, hresponse, State.softResetCheck_ends (hframe.softReset.trans hsoft) hempty]
  rw [hholds, List.map_nil] at hmarks
  rw [State.answerPending_none hpending] at htransit
  unfold CreditFrame State.sameOutsideGroups at hframe
  rw [hcredits, hmarks, htransit] at hframe
  rw [hframe, State.endSoftReset_eq, State.endSoftReset_eq, ← hholds]

end

end Sys2Proof.Machine
end

section
/-! O58. One window through the two steps of a soft reset (R30, R32, R33, R37, R103, R121, R184). -/

namespace Sys2Proof.Machine

/-! ### What the two steps end, and what they leave -/

/-- The group that step 1 abandons: the oldest of a FROZEN window (R35, R121). -/
def Window.faults (x : Window) : List Group := if x.state = .frozen then x.groups.head?.toList else []

/-- The groups that step 2 discards: the unreleased ones of an ONLINE window (R32). -/
def Window.drops (x : Window) : List Group := if x.state = .online then x.groups.filter fun g => g.state.unreleased else []

/-- A soft reset ends the group. -/
def Group.goes (g : Group) : Bool := !g.state.releasedOrLater || g.state == .faulted

/-- What the drain engine, which the window's orphaned writes may keep busy, makes of the queue that step 1 leaves (R103). -/
def queueTaken (busy : Bool) : List Group → List Group
  | [] => []
  | y :: ys => if y.state = .released ∧ busy = false then y.taken :: ys else y :: ys

/-- The window's record after step 1. -/
def Window.thawed (x : Window) (busy : Bool) : Window :=
  if x.state = .frozen then
    { x.unfreeze with
      state := if x.unfreeze.state = .quiescing ∧ queueTaken busy x.groups.tail = [] then .offline else x.unfreeze.state
      quiesceMode := if x.unfreeze.state = .quiescing ∧ queueTaken busy x.groups.tail = [] then none else x.unfreeze.quiesceMode
      groups := queueTaken busy x.groups.tail
      stats := { x.stats with discarded := x.stats.discarded + 1 } }
  else x

/-- The window's record after step 2, which refuses `held` held writes. -/
def Window.quit (x : Window) (held : Nat) : Window :=
  if x.state = .online then
    { x with
      state := if x.groups.filter (fun g => !g.state.unreleased) = [] then .offline else .quiescing
      quiesceMode := if x.groups.filter (fun g => !g.state.unreleased) = [] then none else some .drop
      groups := x.groups.filter fun g => !g.state.unreleased
      stats := { x.stats with
        refused := x.stats.refused + BitVec.ofNat 32 held + BitVec.ofNat 32 (x.drops.countP fun g => g.pendingMarker.isSome)
        discarded := x.stats.discarded + BitVec.ofNat 32 x.drops.length } }
  else x.dropping

section
variable {x : Window} {busy : Bool} {g : Group} {l : List Group}

theorem Window.thawed_of_not_frozen (h : x.state ≠ .frozen) (busy : Bool) : x.thawed busy = x := if_neg h

theorem Window.quit_of_not_online (h : x.state ≠ .online) (n : Nat) : x.quit n = x.dropping := if_neg h

theorem queueTaken_unreleased (busy : Bool) (l : List Group) :
    (queueTaken busy l).filter (fun g => g.state.unreleased) = l.filter fun g => g.state.unreleased := by
  cases l with
  | nil => rfl
  | cons y ys =>
    rw [queueTaken]
    split
    · next hy =>
      have hreleased : y.state.unreleased = false := by rw [hy.1]; rfl
      have htaken : y.taken.state.unreleased = false := rfl
      simp [hreleased, htaken]
    · rfl

theorem queueTaken_busy (h : busy = true ∨ ∀ y ∈ l.head?, y.state ≠ .released) : queueTaken busy l = l := by
  cases l with
  | nil => rfl
  | cons y ys =>
    refine if_neg fun ⟨hy, hb⟩ => ?_
    rcases h with h | h
    · rw [h] at hb
      cases hb
    · exact h y rfl hy

/-- In a queue of R61 behind its drained record: the kept ones come first. -/
theorem queueTaken_filter (hshape : shaped l) (busy : Bool) :
    (queueTaken busy l).filter (fun g => !g.state.unreleased) = queueTaken busy (l.filter fun g => !g.state.unreleased) := by
  cases l with
  | nil => rfl
  | cons y ys =>
    by_cases hy : y.state.unreleased = true
    · have hnot : ¬(y.state = .released ∧ busy = false) := fun ⟨h, _⟩ => by rw [h] at hy; cases hy
      have hrest : ∀ z ∈ ys, z.state.unreleased = true := fun z hz => by
        have hrank := (List.pairwise_cons.1 hshape.2).1 z hz
        revert hrank hy
        cases y.state <;> cases z.state <;> decide
      have hnil : ys.filter (fun g => !g.state.unreleased) = [] := List.filter_eq_nil_iff.2 fun z hz => by simp [hrest z hz]
      rw [queueTaken, if_neg hnot, List.filter_cons_of_neg (by simp [hy]), hnil]
      rfl
    · rw [Bool.not_eq_true] at hy
      rw [List.filter_cons_of_pos (by simp [hy]), queueTaken, queueTaken]
      split
      · rw [List.filter_cons_of_pos (by rfl)]
      · rw [List.filter_cons_of_pos (by simp [hy])]

/-! ### A lawful window -/

theorem Window.law.frozen_cases (h : x.law) (hfrozen : x.state = .frozen) : ∃ g tail f, x.groups = g :: tail ∧ g.state = .faulted ∧
    x.frozenFrom = some f ∧ x.quiesceMode = none ∧ shaped tail ∧ (∀ y ∈ tail, y.state ≠ .faulted) ∧
      (f = .quiescing → ∀ y ∈ tail, y.state.releasedOrLater = true) := by
  obtain ⟨hshape, hsome, hmode, hreleased, hhead, -⟩ := (Window.law_frozen hfrozen).1 h
  obtain ⟨f, hf⟩ := Option.isSome_iff_exists.1 hsome
  cases hgroups : x.groups with
  | nil => rw [hgroups] at hhead; cases hhead
  | cons g tail =>
    rw [hgroups] at hhead hshape hreleased
    refine ⟨g, tail, f, rfl, by simpa using hhead, hf, hmode, hshape.sublist (List.sublist_cons_self _ _), fun y hy hfaulted => ?_,
      fun hq y hy => hreleased (by rw [hf, hq]) y (by simp [hy])⟩
    have hrank := (List.pairwise_cons.1 hshape.2).1 y hy
    rw [hfaulted] at hrank
    exact absurd hrank.2.2 (by decide)

theorem Group.goes_of_not_faulted (h : g.state ≠ .faulted) : g.goes = g.state.unreleased := by
  rw [Group.goes, beq_false_of_ne h, Bool.or_false]
  rfl

theorem filter_goes (h : ∀ y ∈ l, y.state ≠ .faulted) :
    l.filter Group.goes = l.filter (fun g => g.state.unreleased) ∧
      l.filter (fun g => !g.goes) = l.filter fun g => !g.state.unreleased :=
  ⟨List.filter_congr fun y hy => Group.goes_of_not_faulted (h y hy), List.filter_congr fun y hy => by
    rw [Group.goes_of_not_faulted (h y hy)]⟩

theorem filter_unreleased_nil (h : ∀ y ∈ l, y.state.releasedOrLater = true) : l.filter (fun g => g.state.unreleased) = [] :=
  List.filter_eq_nil_iff.2 fun y hy => by simp [GState.unreleased, h y hy]

theorem filter_released_self (h : ∀ y ∈ l, y.state.releasedOrLater = true) : l.filter (fun g => !g.state.unreleased) = l :=
  List.filter_eq_self.2 fun y hy => by simp [GState.unreleased, h y hy]

/-- A window that a soft reset finds neither ONLINE nor FROZEN ends no group. -/
theorem Window.law.goes_nil (h : x.law) (hon : x.state ≠ .online) (hfrozen : x.state ≠ .frozen) :
    ∀ y ∈ x.groups, y.goes = false := by
  intro y hy
  cases hstate : x.state with
  | online => exact absurd hstate hon
  | frozen => exact absurd hstate hfrozen
  | quiescing =>
    obtain ⟨-, -, -, hreleased⟩ := (Window.law_quiescing hstate).1 h
    obtain ⟨hr, hf⟩ := hreleased y hy
    simp [Group.goes, hr, hf]
  | unused =>
    obtain ⟨hnil, -⟩ := (Window.law_idle (by rw [hstate]; rfl)).1 h
    rw [hnil] at hy
    cases hy
  | offline =>
    obtain ⟨hnil, -⟩ := (Window.law_idle (by rw [hstate]; rfl)).1 h
    rw [hnil] at hy
    cases hy

/-- The groups of a window that a soft reset ends are those of step 1 and those of step 2. -/
theorem Window.law.goes (h : x.law) (busy : Bool) : x.faults ++ (x.thawed busy).drops = x.groups.filter Group.goes := by
  by_cases hfrozen : x.state = .frozen
  · obtain ⟨g, tail, f, hgroups, hfaulted, hfrom, -, -, hnone, hreleased⟩ := h.frozen_cases hfrozen
    have hgoes : g.goes = true := by simp [Group.goes, hfaulted]
    rw [Window.faults, if_pos hfrozen, hgroups, List.filter_cons_of_pos hgoes, (filter_goes hnone).1, Window.thawed, if_pos hfrozen,
      Window.drops, hgroups]
    cases f with
    | online =>
      have hstate : x.unfreeze.state = .online := by simp [Window.unfreeze, hfrozen, hfrom]
      simp [hstate, queueTaken_unreleased]
    | quiescing =>
      have hstate : x.unfreeze.state = .quiescing := by simp [Window.unfreeze, hfrozen, hfrom]
      rw [filter_unreleased_nil (hreleased rfl), hstate]
      refine congrArg (_ ++ ·) (if_neg ?_)
      dsimp only
      split <;> decide
  · rw [Window.faults, if_neg hfrozen, Window.thawed_of_not_frozen hfrozen, List.nil_append, Window.drops]
    by_cases hon : x.state = .online
    · obtain ⟨-, -, -, hnone⟩ := (Window.law_online hon).1 h
      rw [if_pos hon, (filter_goes hnone).1]
    · rw [if_neg hon, List.filter_eq_nil_iff.2 fun y hy => by simp [h.goes_nil hon hfrozen y hy]]

/-- The queue that the two steps leave. -/
theorem Window.law.left (h : x.law) (busy : Bool) (n : Nat) : ((x.thawed busy).quit n).groups =
    if x.state = .frozen then queueTaken busy (x.groups.filter fun g => !g.goes) else x.groups.filter fun g => !g.goes := by
  by_cases hfrozen : x.state = .frozen
  · obtain ⟨g, tail, f, hgroups, hfaulted, hfrom, -, hshape, hnone, hreleased⟩ := h.frozen_cases hfrozen
    have hgoes : g.goes = true := by simp [Group.goes, hfaulted]
    rw [if_pos hfrozen, hgroups, List.filter_cons_of_neg (by simp [hgoes]), (filter_goes hnone).2, Window.thawed, if_pos hfrozen,
      hgroups, ← queueTaken_filter hshape]
    cases f with
    | online =>
      have hstate : x.unfreeze.state = .online := by simp [Window.unfreeze, hfrozen, hfrom]
      simp [hstate, Window.quit]
    | quiescing =>
      have hstate : x.unfreeze.state = .quiescing := by simp [Window.unfreeze, hfrozen, hfrom]
      rw [queueTaken_filter hshape, filter_released_self (hreleased rfl), Window.quit_of_not_online, Window.dropping_groups]
      · rfl
      · rw [hstate]
        dsimp only
        split <;> decide
  · rw [if_neg hfrozen, Window.thawed_of_not_frozen hfrozen]
    by_cases hon : x.state = .online
    · obtain ⟨-, -, -, hnone⟩ := (Window.law_online hon).1 h
      rw [Window.quit, if_pos hon, (filter_goes hnone).2]
    · rw [Window.quit_of_not_online hon, Window.dropping_groups,
        List.filter_eq_self.2 fun y hy => by simp [h.goes_nil hon hfrozen y hy]]

theorem Window.countP_drops (x : Window) (hon : x.state = .online) : (x.drops.countP fun g => g.pendingMarker.isSome) =
    x.groups.countP fun g => !g.state.releasedOrLater && g.pendingMarker.isSome := by
  rw [Window.drops, if_pos hon, List.countP_filter]
  exact List.countP_congr fun y _ => by rw [GState.unreleased, Bool.and_comm]

theorem countP_pending_unreleased (l : List Group) : ((l.filter fun g => g.state.unreleased).countP fun g => g.pendingMarker.isSome) =
    l.countP fun g => !g.state.releasedOrLater && g.pendingMarker.isSome := by
  rw [List.countP_filter]
  exact List.countP_congr fun y _ => by rw [GState.unreleased, Bool.and_comm]

theorem count_add (a : BitVec 32) (m n : Nat) : a + BitVec.ofNat 32 m + BitVec.ofNat 32 n = a + BitVec.ofNat 32 (m + n) := by
  rw [BitVec.ofNat_add, BitVec.add_assoc]

/-- The record of a window that a soft reset finds ONLINE or FROZEN. -/
theorem Window.law.soft (h : x.law) (hlive : x.state = .online ∨ x.state = .frozen) (busy : Bool) {n : Nat}
    (hn : x.state = .frozen → n = 0) : (x.thawed busy).quit n =
    { x with
      state := if ((x.thawed busy).quit n).groups = [] then .offline else .quiescing
      quiesceMode := if ((x.thawed busy).quit n).groups = [] then none else some .drop
      frozenFrom := none
      groups := ((x.thawed busy).quit n).groups
      stats := { x.stats with
        discarded := x.stats.discarded + BitVec.ofNat 32 (x.groups.countP Group.goes)
        refused := x.stats.refused + BitVec.ofNat 32 (n + x.groups.countP fun g =>
          !g.state.releasedOrLater && g.pendingMarker.isSome) } } := by
  rw [h.left, List.countP_eq_length_filter, ← h.goes busy]
  rcases hlive with hon | hfrozen
  · have hnot : x.state ≠ .frozen := by rw [hon]; decide
    obtain ⟨-, hfrom, -, hnone⟩ := (Window.law_online hon).1 h
    rw [if_neg hnot, Window.thawed_of_not_frozen hnot, Window.quit, if_pos hon, (filter_goes hnone).2, Window.faults, if_neg hnot,
      List.nil_append, x.countP_drops hon, hfrom, count_add]
  · obtain ⟨g, tail, f, hgroups, hfaulted, hfrom, hmode, hshape, hnone, hreleased⟩ := h.frozen_cases hfrozen
    have hgoes : g.goes = true := by simp [Group.goes, hfaulted]
    have hpend : (x.groups.countP fun g => !g.state.releasedOrLater && g.pendingMarker.isSome) =
        tail.countP fun g => !g.state.releasedOrLater && g.pendingMarker.isSome := by
      rw [hgroups, List.countP_cons_of_neg]
      simp [hfaulted, GState.releasedOrLater]
    have hfaults : x.faults = [g] := by rw [Window.faults, if_pos hfrozen, hgroups]; rfl
    rw [if_pos hfrozen, hn hfrozen, hpend, hfaults, hgroups, List.filter_cons_of_neg (by simp [hgoes]), (filter_goes hnone).2,
      ← queueTaken_filter hshape, List.length_append]
    cases f with
    | online =>
      have hthawed : x.thawed busy = { x with
          state := .online, frozenFrom := none, groups := queueTaken busy tail
          stats := { x.stats with discarded := x.stats.discarded + 1 } } := by
        simp [Window.thawed, Window.unfreeze, hfrozen, hfrom, hgroups, hmode]
      have hdrops : (x.thawed busy).drops = tail.filter fun g => g.state.unreleased := by
        rw [hthawed, Window.drops]
        exact (if_pos rfl).trans (queueTaken_unreleased busy tail)
      have hon : (x.thawed busy).state = .online := by rw [hthawed]
      rw [Window.quit, if_pos hon, hdrops, countP_pending_unreleased, hthawed, count_add, count_succ, Nat.add_comm _ 1]
      rfl
    | quiescing =>
      have hall := hreleased rfl
      have hthawed : x.thawed busy = { x with
          state := if queueTaken busy tail = [] then .offline else .quiescing
          quiesceMode := if queueTaken busy tail = [] then none else some .drop
          frozenFrom := none, groups := queueTaken busy tail
          stats := { x.stats with discarded := x.stats.discarded + 1 } } := by
        simp [Window.thawed, Window.unfreeze, hfrozen, hfrom, hgroups]
      have hnot : (x.thawed busy).state ≠ .online := by
        rw [hthawed]
        dsimp only
        split <;> decide
      have hdrops : (x.thawed busy).drops = [] := if_neg hnot
      have hkept : (queueTaken busy tail).filter (fun g => !g.state.unreleased) = queueTaken busy tail := by
        rw [queueTaken_filter hshape, filter_released_self hall]
      rw [Window.quit_of_not_online hnot, hdrops, hkept, hthawed, ← countP_pending_unreleased, filter_unreleased_nil hall]
      by_cases hnil : queueTaken busy tail = [] <;> simp [Window.dropping, hnil]

end

end Sys2Proof.Machine
end

section
/-! O58. What the two steps of a soft reset free, refuse and answer (R30, R32, R56, R83, R121, R153). -/

namespace Sys2Proof.Machine

section
variable {s t u : State} {w : WIdx} {g : Group} {gone gone' : Entry → Bool} {l m : List Told} {keeps keeps' : WIdx → Bool}

/-- What a held write is, but for its mark. -/
def Held.claim (h : Held) : HoldNo × WIdx × Source × Tag := (h.slot, h.window, h.source, h.tag)

theorem map_claim_marks (p : Held → Prop) [DecidablePred p] (l : List Held) :
    (l.map fun h => if p h then { h with pending := true } else h).map Held.claim = l.map Held.claim := by
  rw [List.map_map]
  refine List.map_congr_left fun h _ => ?_
  by_cases hp : p h
  · rw [Function.comp_apply, if_pos hp]
    rfl
  · rw [Function.comp_apply, if_neg hp]

/-- The entries of `gone` are freed, the writes held for windows not in `keeps` leave, and the answers `l` are given. -/
structure Drops (gone : Entry → Bool) (l : List Told) (keeps : WIdx → Bool) (s t : State) : Prop where
  slots : t.slots = s.slots.filter fun e => !gone e
  tells : s.oneRecordEach → Tells l s t
  holds : t.holds.map Held.claim = (s.holds.filter fun h => keeps h.window).map Held.claim
  free : ∀ u, s.rcd u = none → t.rcd u = none
  frame : CreditFrame s t

/-- Nothing of it. -/
abbrev Drops.Nothing (s t : State) : Prop := Drops (fun _ => false) [] (fun _ => true) s t

theorem Drops.nothing (hslots : t.slots = s.slots) (htransit : t.transit = s.transit)
    (hholds : t.holds.map Held.claim = s.holds.map Held.claim) (hframe : CreditFrame s t) : Drops.Nothing s t where
  slots := by rw [hslots]; simp
  tells := fun _ => .of_transit htransit
  holds := by rw [hholds]; simp
  free := fun u hu => by rw [State.rcd, htransit]; exact hu
  frame := hframe

theorem filter_claim (keeps : WIdx → Bool) (l : List Held) :
    (l.filter fun h => keeps h.window).map Held.claim = (l.map Held.claim).filter fun c => keeps c.2.1 := by
  rw [List.filter_map]
  rfl

theorem Drops.trans (h : Drops gone l keeps s t) (k : Drops gone' m keeps' t u) :
    Drops (fun e => gone e || gone' e) (l ++ m) (fun v => keeps v && keeps' v) s u where
  slots := by
    rw [k.slots, h.slots, List.filter_filter]
    exact List.filter_congr fun e _ => by rw [Bool.not_or, Bool.and_comm]
  tells := fun hone => (h.tells hone).trans (k.tells ((h.tells hone).oneRecordEach hone))
  holds := by
    rw [k.holds, filter_claim, h.holds, filter_claim, filter_claim fun v => keeps v && keeps' v, List.filter_filter]
    exact List.filter_congr fun c _ => Bool.and_comm _ _
  free := fun v hv => k.free v (h.free v hv)
  frame := h.frame.trans k.frame

/-- A change of none of it, before and after. -/
theorem Drops.then_nothing (h : Drops gone l keeps s t) (k : Drops.Nothing t u) : Drops gone l keeps s u := by
  simpa using h.trans k

theorem Drops.after_nothing (h : Drops.Nothing s t) (k : Drops gone l keeps t u) : Drops gone l keeps s u := by
  simpa using h.trans k

/-! ### The changes of which the steps are made -/

theorem Drops.freeGroupSlots (s : State) (w : WIdx) (n : Byte) :
    Drops (fun e => e.ofGroup w n) [] (fun _ => true) s (s.freeGroupSlots w n) where
  slots := s.freeGroupSlots_slots w n
  tells := fun _ => .of_transit (s.freeGroupSlots_transit w n)
  holds := by rw [State.freeGroupSlots_marks, map_claim_marks, List.filter_true]
  free := fun u hu => by rw [State.rcd, s.freeGroupSlots_transit w n]; exact hu
  frame := .of_same (same_closed.freeGroupSlots s w n)

/-- The answer to a group's LATE marker (R74). -/
def Group.told (g : Group) (r : Result) : List Told :=
  match g.pendingMarker with
  | some (src, tag) => [⟨src, tag, r⟩]
  | none => []

theorem Group.mem_told {r : Result} {a : Told} : a ∈ g.told r ↔ g.pendingMarker = some (a.source, a.tag) ∧ a.result = r := by
  unfold Group.told
  split
  · next src tag h =>
    rw [h, List.mem_singleton]
    constructor
    · rintro rfl
      exact ⟨rfl, rfl⟩
    · rintro ⟨hp, rfl⟩
      cases hp
      rfl
  · next h => simp [h]

theorem State.answerWrite_free (s : State) (src : Source) (tag : Tag) (r : Result) (u : RecNo) (h : s.rcd u = none) :
    (s.answerWrite src tag r).rcd u = none := by
  unfold State.answerWrite
  split
  · next v _ =>
    rw [State.answerRcd, State.modRcd, State.rcd_setRcd]
    split
    · next huv => rw [← huv, h]; rfl
    · exact h
  · exact h

theorem Drops.answerWrite (s : State) (src : Source) (tag : Tag) (r : Result) :
    Drops (fun _ => false) [⟨src, tag, r⟩] (fun _ => true) s (s.answerWrite src tag r) where
  slots := by simp
  tells := fun hone => State.answerWrite_tells hone src tag r
  holds := by simp
  free := s.answerWrite_free src tag r
  frame := .of_same (same_closed.answerWrite s src tag r)

theorem Drops.answerPending (s : State) (g : Group) (r : Result) :
    Drops (fun _ => false) (g.told r) (fun _ => true) s (s.answerPending g r) := by
  rw [State.answerPending, Group.told]
  cases g.pendingMarker with
  | none => exact .nothing rfl rfl rfl (.of_same rfl)
  | some p => exact .answerWrite s p.1 p.2 r

theorem Drops.post (s : State) (v : WIdx) (e : EventBody) : Drops.Nothing s (s.post v e) :=
  .nothing (by simp) (by simp) (by simp) (.of_same (same_closed.post s v e))

theorem Drops.windowTrigger (s : State) (v : WIdx) : Drops.Nothing s (s.windowTrigger v) :=
  .nothing rfl rfl (map_claim_marks _ _) (.of_same (same_closed.windowTrigger s v))

theorem Drops.modWin (s : State) (v : WIdx) (f : Window → Window) : Drops.Nothing s (s.modWin v f) :=
  .nothing rfl rfl rfl (.of_same rfl)

theorem Drops.mapCredits (s : State) (f : Credit → Credit) : Drops.Nothing s (s.mapCredits f) :=
  .nothing (by simp) (by simp) (by simp) (.mapCredits s f)

theorem Drops.offlineIfEmpty (s : State) (w : WIdx) : Drops.Nothing s (s.offlineIfEmpty w) := by
  unfold State.offlineIfEmpty
  split
  · exact (Drops.modWin s w _).then_nothing (.post _ w _)
  · exact .nothing rfl rfl rfl (.of_same rfl)

/-! ### One group abandoned, and groups discarded (R83, R121) -/

theorem Drops.abandoned (s : State) (w : WIdx) (g : Group) :
    Drops (fun e => e.ofGroup w g.number) (g.told .failed) (fun _ => true) s (s.abandoned w g) := by
  have hanswered : Drops (fun e => e.ofGroup w g.number) (g.told .failed) (fun _ => true) s
      (((s.freeGroupSlots w g.number).mapCredits fun c => c.orphaned w g.number).answerPending g .failed) := by
    simpa using ((Drops.freeGroupSlots s w g.number).then_nothing (.mapCredits _ fun c => c.orphaned w g.number)).trans
      (.answerPending _ g .failed)
  unfold State.abandoned State.bumpDiscarded
  exact (((hanswered.then_nothing (.post _ w _)).then_nothing (.modWin _ w _)).then_nothing (.modWin _ w _)).then_nothing
    (.windowTrigger _ w)

theorem Drops.refusePending (s : State) (w : WIdx) (g : Group) :
    Drops (fun _ => false) (g.told .refused) (fun _ => true) s (s.refusePending w g) := by
  have hanswer := Drops.answerPending s g .refused
  unfold State.refusePending
  cases hp : g.pendingMarker with
  | none => rwa [State.answerPending_none hp] at hanswer
  | some p => exact hanswer.then_nothing (.modWin _ w _)

theorem Drops.discardGroup (s : State) (w : WIdx) (g : Group) (c : Cause) :
    Drops (fun e => e.ofGroup w g.number) (g.told .refused) (fun _ => true) s (s.discardGroup w g c) := by
  have hrefused : Drops (fun e => e.ofGroup w g.number) (g.told .refused) (fun _ => true) s
      ((s.freeGroupSlots w g.number).refusePending w g) := by
    simpa using (Drops.freeGroupSlots s w g.number).trans (.refusePending _ w g)
  unfold State.discardGroup State.bumpDiscarded State.removeGroup
  exact (((hrefused.then_nothing (.post _ w _)).then_nothing (.modWin _ w _)).then_nothing (.modWin _ w _)).then_nothing
    (.windowTrigger _ w)

theorem Drops.discards (w : WIdx) (c : Cause) (gs : List Group) (s : State) :
    Drops (fun e => e.ofGroups w gs) (gs.flatMap fun g => g.told .refused) (fun _ => true) s
      (gs.foldl (fun s g => s.discardGroup w g c) s) := by
  induction gs generalizing s with
  | nil => exact .nothing rfl rfl rfl (.of_same rfl)
  | cons g gs ih => simpa [Entry.ofGroups] using (Drops.discardGroup s w g c).trans (ih (s.discardGroup w g c))

/-! ### Held writes refused (R153) -/

theorem State.refuseWrite_free (s : State) (h : Held) (c : Cause) (u : RecNo) (hu : s.rcd u = none) :
    (s.refuseWrite h.toWrite c).rcd u = none := by
  rw [State.rcd, State.transit_refuseWrite]
  exact s.answerWrite_free h.source h.tag .refused u hu

theorem Drops.refuseHeld (hnodup : (s.holds.map Held.slot).Nodup) (w : WIdx) :
    Drops (fun _ => false) ((s.holds.filter fun h => h.window == w).map Held.told) (fun v => v != w) s (s.refuseHeld w) where
  slots := by rw [(SameQueues.refuseHeld s w).slots]; simp
  tells := fun hone => State.refusals_tell .windowState _ hone
  holds := by rw [State.holds_refuseHeld hnodup]
  free := fun u hu => foldl_keeps (p := fun t : State => t.rcd u = none) (fun t h ht => t.refuseWrite_free h .windowState u ht) _ hu
  frame := .of_same (same_closed.refuseHeld s w)

end

end Sys2Proof.Machine
end

section
/-! O58. The two steps of a soft reset, window by window (R184). -/

namespace Sys2Proof.Machine

/-! ### The writes orphaned by step 1 (R121) -/

/-- A credit after the abandonment of the groups `faults v` of each window `v`. -/
def Credit.orphanedIn (x : Credit) (faults : WIdx → List Group) : Credit :=
  match x with
  | .free => .free
  | .forwarder cl => .forwarder cl
  | .drain (.entry v n q) => if (faults v).any (fun g => g.number == n) then .drain (.orphan v) else .drain (.entry v n q)
  | .drain (.marker v n) => if (faults v).any (fun g => g.number == n) then .drain (.orphan v) else .drain (.marker v n)
  | .drain (.orphan v) => .drain (.orphan v)

/-- The window is kept busy: one of its writes is orphaned, or becomes so when its FAULTED group is abandoned (R103, R121). -/
def State.busy (s : State) (w : WIdx) : Bool :=
  s.credits.toList.any fun x => x.orphanedIn (fun v => if v = w then (s.win w).faults else []) == .drain (.orphan w)

section
variable {x : Credit} {F G : WIdx → List Group} {s t u : State} {w : WIdx} {p q : WIdx → Bool}

theorem Credit.orphanedIn_nil (x : Credit) (h : ∀ v, F v = []) : x.orphanedIn F = x := by
  match x with
  | .free => rfl
  | .forwarder _ => rfl
  | .drain (.entry v n k) => rw [Credit.orphanedIn, h]; rfl
  | .drain (.marker v n) => rw [Credit.orphanedIn, h]; rfl
  | .drain (.orphan _) => rfl

theorem Credit.orphaned_eq (x : Credit) (w : WIdx) (g : Group) :
    x.orphaned w g.number = x.orphanedIn fun v => if v = w then [g] else [] := by
  have hany : ∀ (v : WIdx) (n : Byte), ((if v = w then [g] else [] : List Group).any fun y => y.number == n) = true ↔
      v = w ∧ n = g.number := fun v n => by
    by_cases hv : v = w
    · simp [hv, eq_comm (a := n)]
    · simp [hv]
  match x with
  | .free => rfl
  | .forwarder _ => rfl
  | .drain (.entry v n k) =>
    simp only [Credit.orphaned, Credit.orphanedIn, hany]
    split
    · next h => rw [h.1]
    · rfl
  | .drain (.marker v n) =>
    simp only [Credit.orphaned, Credit.orphanedIn, hany]
    split
    · next h => rw [h.1]
    · rfl
  | .drain (.orphan _) => rfl

theorem Credit.orphanedIn_twice (x : Credit) (F G : WIdx → List Group) :
    (x.orphanedIn F).orphanedIn G = x.orphanedIn fun v => F v ++ G v := by
  match x with
  | .free => rfl
  | .forwarder _ => rfl
  | .drain (.entry v n k) =>
    by_cases hF : (F v).any (fun g => g.number == n) = true
    · simp only [Credit.orphanedIn, hF, List.any_append, Bool.true_or, if_true]
    · rw [Bool.not_eq_true] at hF
      simp only [Credit.orphanedIn, hF, List.any_append, Bool.false_or, Bool.false_eq_true, if_false]
  | .drain (.marker v n) =>
    by_cases hF : (F v).any (fun g => g.number == n) = true
    · simp only [Credit.orphanedIn, hF, List.any_append, Bool.true_or, if_true]
    · rw [Bool.not_eq_true] at hF
      simp only [Credit.orphanedIn, hF, List.any_append, Bool.false_or, Bool.false_eq_true, if_false]
  | .drain (.orphan _) => rfl

/-- A write is orphaned as one of window `w` if it is one of window `w` and its group is abandoned. -/
theorem Credit.ite_orphan_iff {z : Credit} (hz : z ≠ .drain (.orphan w)) (F : WIdx → List Group) (v : WIdx) (n : Byte) :
    (if (F v).any (fun g => g.number == n) then Credit.drain (.orphan v) else z) = .drain (.orphan w) ↔
      v = w ∧ (F w).any (fun g => g.number == n) = true := by
  by_cases hv : v = w
  · subst hv
    by_cases hF : (F v).any (fun g => g.number == n) = true
    · rw [if_pos hF]
      exact ⟨fun _ => ⟨rfl, hF⟩, fun _ => rfl⟩
    · rw [if_neg hF]
      exact ⟨fun he => absurd he hz, fun he => absurd he.2 hF⟩
  · split
    · simp [hv]
    · exact ⟨fun he => absurd he hz, fun he => absurd he.1 hv⟩

/-- The credits that serve orphaned writes of window `w` after the abandonments. -/
theorem Credit.orphanedIn_iff (x : Credit) (F : WIdx → List Group) : x.orphanedIn F = .drain (.orphan w) ↔
    x = .drain (.orphan w) ∨ ∃ n, (F w).any (fun g => g.number == n) = true ∧
      (x = .drain (.marker w n) ∨ ∃ k, x = .drain (.entry w n k)) := by
  match x with
  | .free => simp [Credit.orphanedIn]
  | .forwarder _ => simp [Credit.orphanedIn]
  | .drain (.orphan _) => simp [Credit.orphanedIn]
  | .drain (.entry v n k) =>
    rw [Credit.orphanedIn, Credit.ite_orphan_iff (by simp)]
    constructor
    · rintro ⟨rfl, hF⟩
      exact .inr ⟨n, hF, .inr ⟨k, rfl⟩⟩
    · rintro (he | ⟨m, hF, he | ⟨j, he⟩⟩)
      · cases he
      · cases he
      · cases he
        exact ⟨rfl, hF⟩
  | .drain (.marker v n) =>
    rw [Credit.orphanedIn, Credit.ite_orphan_iff (by simp)]
    constructor
    · rintro ⟨rfl, hF⟩
      exact .inr ⟨n, hF, .inl rfl⟩
    · rintro (he | ⟨m, hF, he | ⟨j, he⟩⟩)
      · cases he
      · cases he
        exact ⟨rfl, hF⟩
      · cases he

/-- A write of window `w` is orphaned by what happens at window `w`. -/
theorem Credit.orphanedIn_at (x : Credit) (h : F w = G w) : x.orphanedIn F = .drain (.orphan w) ↔ x.orphanedIn G = .drain (.orphan w) := by
  rw [Credit.orphanedIn_iff, Credit.orphanedIn_iff, h]

theorem State.busy_iff (h : F w = (s.win w).faults) : s.busy w = true ↔ ∃ c, (s.credit c).orphanedIn F = .drain (.orphan w) := by
  have hat : ∀ x : Credit, x.orphanedIn (fun v => if v = w then (s.win w).faults else []) = .drain (.orphan w) ↔
      x.orphanedIn F = .drain (.orphan w) := fun x => x.orphanedIn_at (by rw [if_pos rfl, h])
  simp only [State.busy, List.any_eq_true, beq_iff_eq, Vector.mem_toList_iff, Vector.mem_iff_getElem]
  constructor
  · rintro ⟨x, ⟨i, hi, rfl⟩, hx⟩
    exact ⟨⟨i, hi⟩, (hat _).1 hx⟩
  · rintro ⟨c, hc⟩
    exact ⟨s.credit c, ⟨c.val, c.isLt, rfl⟩, (hat _).2 hc⟩

/-! ### Step 1 (R37, R121) -/

/-- Step 1 at the windows of `p`. -/
structure Thaws (p : WIdx → Bool) (s t : State) : Prop where
  win : ∀ v, t.win v = if p v = true then (s.win v).thawed (s.busy v) else s.win v
  credit : ∀ c, t.credit c = (s.credit c).orphanedIn fun v => if p v = true then (s.win v).faults else []
  drops : ∃ l, Drops (fun e => p e.window && e.ofGroups e.window (s.win e.window).faults) l (fun _ => true) s t ∧
    ∀ a, a ∈ l ↔ ∃ v, p v = true ∧ ∃ g ∈ (s.win v).faults, a ∈ g.told .failed

theorem Thaws.busy (h : Thaws p s t) {v : WIdx} (hv : p v = false) : t.busy v = s.busy v := by
  have hwin : t.win v = s.win v := by rw [h.win, if_neg (by simp [hv])]
  rw [Bool.eq_iff_iff, State.busy_iff (F := fun z => if z = v then (s.win v).faults else []) (by rw [if_pos rfl, hwin]),
    State.busy_iff (F := fun z => (if p z = true then (s.win z).faults else []) ++ if z = v then (s.win v).faults else [])
      (by rw [if_neg (by simp [hv]), if_pos rfl, List.nil_append])]
  simp only [h.credit, Credit.orphanedIn_twice]

theorem Thaws.refl (s : State) : Thaws (fun _ => false) s s where
  win := fun v => rfl
  credit := fun c => (Credit.orphanedIn_nil _ fun v => rfl).symm
  drops := ⟨[], by simpa using Drops.nothing (s := s) rfl rfl rfl (.of_same rfl), by simp⟩

/-- The windows of `p`, then those of `q`, none of them twice. -/
theorem Thaws.trans (h : Thaws p s t) (k : Thaws q t u) (hpq : ∀ v, p v = true → q v = false) : Thaws (fun v => p v || q v) s u := by
  have hkept : ∀ v, q v = true → t.win v = s.win v := fun v hq => by
    rw [h.win, if_neg fun hp => by rw [hpq v hp] at hq; cases hq]
  have hnot : ∀ v, q v = true → p v = false := fun v hq => by
    cases hp : p v
    · rfl
    · rw [hpq v hp] at hq
      cases hq
  refine ⟨fun v => ?_, fun c => ?_, ?_⟩
  · cases hq : q v
    · rw [k.win, if_neg (by simp [hq]), h.win, Bool.or_false]
    · rw [k.win, if_pos hq, hkept v hq, h.busy (hnot v hq), if_pos (by simp)]
  · rw [k.credit, h.credit, Credit.orphanedIn_twice]
    refine congrArg (Credit.orphanedIn _) (funext fun v => ?_)
    cases hq : q v
    · simp
    · rw [hkept v hq]
      simp [hnot v hq]
  · obtain ⟨l, hl, hmem⟩ := h.drops
    obtain ⟨m, hm, kmem⟩ := k.drops
    refine ⟨l ++ m, ?_, fun a => ?_⟩
    · have hgone : (fun e : Entry => (p e.window || q e.window) && e.ofGroups e.window (s.win e.window).faults) = fun e =>
          (p e.window && e.ofGroups e.window (s.win e.window).faults) ||
            (q e.window && e.ofGroups e.window (t.win e.window).faults) := funext fun e => by
        cases hq : q e.window
        · simp
        · rw [hkept _ hq]
          simp [hnot _ hq]
      rw [hgone]
      simpa using hl.trans hm
    · rw [List.mem_append, hmem, kmem]
      constructor
      · rintro (⟨v, hv, hg⟩ | ⟨v, hv, hg⟩)
        · exact ⟨v, by simp [hv], hg⟩
        · rw [hkept v hv] at hg
          exact ⟨v, by simp [hv], hg⟩
      · rintro ⟨v, hv, hg⟩
        rcases Bool.or_eq_true _ _ ▸ hv with hv | hv
        · exact .inl ⟨v, hv, hg⟩
        · exact .inr ⟨v, hv, by rwa [hkept v hv]⟩

/-- Step 1 at a window that is not FROZEN. -/
theorem thaws_none (h : (s.win w).state ≠ .frozen) : Thaws (· == w) s (s.softAbandon w) := by
  have hnone : (s.win w).faults = [] := if_neg h
  have hnil : ∀ v, (if (v == w) = true then (s.win v).faults else []) = [] := fun v => by
    by_cases hv : v = w
    · rw [hv, hnone, ite_self]
    · rw [if_neg (by simpa using hv)]
  rw [State.softAbandon, if_neg h]
  refine ⟨fun v => ?_, fun c => (Credit.orphanedIn_nil _ hnil).symm, [], ?_, fun a => ?_⟩
  · split
    · next hv => rw [Window.thawed_of_not_frozen]; rwa [eq_of_beq hv]
    · rfl
  · have hgone : (fun e : Entry => e.window == w && e.ofGroups e.window (s.win e.window).faults) = fun _ => false := funext fun e => by
      by_cases he : e.window = w
      · rw [he, hnone]
        simp [Entry.ofGroups]
      · simp [he]
    rw [hgone]
    exact .nothing rfl rfl rfl (.of_same rfl)
  · simp [hnone]

/-- What the drain engine makes of the queue behind the abandoned group (R103). -/
theorem queueTaken_leaves {a : State} {l : List Group} {b : Bool} (hb : a.hasOrphan w = b)
    (he : ∀ y ∈ l.head?, y.state = .released → y.entryCount ≠ 0) : a.leavesOrWaits w l (queueTaken b l) := by
  cases l with
  | nil => exact .inl (.inl ⟨rfl, rfl⟩)
  | cons y ys =>
    by_cases hr : y.state = .released
    · cases b with
      | true => exact .inr ⟨by simp, hb, queueTaken_busy (.inl rfl)⟩
      | false => exact .inl (.inr (.inr ⟨y, ys, rfl, hr, he y rfl hr, hb, if_pos ⟨hr, rfl⟩⟩))
    · exact .inl (.inr (.inl ⟨y, ys, rfl, hr, if_neg fun h => hr h.1⟩))

theorem Window.unfreeze_stats (x : Window) : x.unfreeze.stats = x.stats := by
  unfold Window.unfreeze
  split <;> rfl

/-- Step 1 at a FROZEN window. -/
theorem thaws_some (hlaw : (s.win w).law) (hfrozen : (s.win w).state = .frozen)
    (hentries : ∀ y ∈ (s.win w).groups.tail.head?, y.state = .released → y.entryCount ≠ 0) :
    Thaws (· == w) s (s.softAbandon w) := by
  obtain ⟨g, tail, f, hgroups, hfaulted, hfrom, -⟩ := hlaw.frozen_cases hfrozen
  have hfaults : (s.win w).faults = [g] := by rw [Window.faults, if_pos hfrozen, hgroups]; rfl
  obtain ⟨a, ha⟩ : ∃ a, a = s.modWin w Window.unfreeze := ⟨_, rfl⟩
  obtain ⟨b, hb⟩ : ∃ b, b = a.abandoned w g := ⟨_, rfl⟩
  have hcredit : ∀ c, b.credit c = (s.credit c).orphanedIn fun v => if v = w then [g] else [] := fun c => by
    rw [hb, State.credit_abandoned, Credit.orphaned_eq, ha]
    rfl
  have hstep : s.softAbandon w = b.drainTake w := by
    have hold : a.oldest w = some g := by
      rw [ha, State.oldest_unfreeze, State.oldest, hgroups]
      rfl
    rw [State.softAbandon, if_pos hfrozen, ← ha, State.abandonFaulted_eq hold hfaulted, hb]
  have hwin : b.win w = { (s.win w).unfreeze with
      groups := tail, stats := { (s.win w).stats with discarded := (s.win w).stats.discarded + 1 } } := by
    rw [hb, State.win_abandoned, ha, State.win_modWin_same, Window.unfreeze_groups, Window.unfreeze_stats, hgroups]
    rfl
  have hstate : (b.win w).state = .online ∨ (b.win w).state = .quiescing := by
    rw [hwin]
    cases f <;> simp [Window.unfreeze, hfrozen, hfrom]
  have hbusy : b.hasOrphan w = s.busy w := by
    rw [Bool.eq_iff_iff, State.hasOrphan_iff, State.busy_iff (F := fun v => if v = w then [g] else []) (by rw [if_pos rfl, hfaults])]
    simp only [hcredit]
  have htakes : b.leavesOrWaits w (b.win w).groups (queueTaken (s.busy w) tail) := by
    rw [hgroups] at hentries
    rw [hwin]
    exact queueTaken_leaves hbusy hentries
  have hframe := State.takenFrame hstate htakes
  have honly : OnlyAt w s (b.drainTake w) := by
    rw [hb, ha]
    exact ((OnlyAt.modWin s _).trans (.abandoned _ g)).trans (.drainTake _)
  rw [hstep]
  refine ⟨fun v => ?_, fun c => ?_, g.told .failed, ?_, fun x => ?_⟩
  · by_cases hv : v = w
    · rw [if_pos (by simpa using hv), hv, State.win_drainTake hstate htakes, hwin, Window.thawed, if_pos hfrozen, hgroups]
      rfl
    · rw [if_neg (by simpa using hv), honly v hv]
  · rw [State.credit, sameOutsideGroups_credits (same_closed.drainTake b w), ← State.credit, hcredit]
    refine congrArg (Credit.orphanedIn _) (funext fun v => ?_)
    by_cases hv : v = w
    · rw [if_pos hv, if_pos (by simpa using hv), hv, hfaults]
    · rw [if_neg hv, if_neg (by simpa using hv)]
  · have habandoned : Drops (fun e => e.ofGroup w g.number) (g.told .failed) (fun _ => true) s (b.drainTake w) := by
      have hdropped : Drops (fun e => e.ofGroup w g.number) (g.told .failed) (fun _ => true) s b := by
        rw [hb, ha]
        exact Drops.after_nothing (.modWin s w _) (.abandoned _ w g)
      exact hdropped.then_nothing (.nothing hframe.slots hframe.transit (by rw [hframe.holds])
        (.of_same (same_closed.drainTake b w)))
    have hgone : (fun e : Entry => e.window == w && e.ofGroups e.window (s.win e.window).faults) = fun e => e.ofGroup w g.number :=
      funext fun e => by
        by_cases he : e.window = w
        · rw [he, hfaults]
          simp [Entry.ofGroups]
        · rw [Entry.ofGroup, beq_false_of_ne he, Bool.false_and, Bool.false_and]
    rw [hgone]
    exact habandoned
  · constructor
    · exact fun hx => ⟨w, by simp, g, by simp [hfaults], hx⟩
    · rintro ⟨v, hv, y, hy, hx⟩
      rw [eq_of_beq hv, hfaults, List.mem_singleton] at hy
      rwa [← hy]

/-- Step 1 at the windows of a list that names none twice. -/
theorem thaws_foldl (l : List WIdx) (hl : l.Nodup) (s : State) (hlaw : ∀ v ∈ l, (s.win v).law)
    (hentries : ∀ v ∈ l, (s.win v).state = .frozen → ∀ y ∈ (s.win v).groups.tail.head?, y.state = .released → y.entryCount ≠ 0) :
    Thaws (fun v => l.contains v) s (l.foldl State.softAbandon s) := by
  induction l generalizing s with
  | nil => exact Thaws.refl s
  | cons w l ih =>
    obtain ⟨hw, hl⟩ := List.nodup_cons.1 hl
    have hfirst : Thaws (· == w) s (s.softAbandon w) := by
      by_cases hfrozen : (s.win w).state = .frozen
      · exact thaws_some (hlaw w (by simp)) hfrozen (hentries w (by simp) hfrozen)
      · exact thaws_none hfrozen
    have hkept : ∀ v ∈ l, (s.softAbandon w).win v = s.win v := fun v hv =>
      OnlyAt.softAbandon s v fun he => hw (he ▸ hv)
    have hrest := ih hl (s.softAbandon w) (fun v hv => by rw [hkept v hv]; exact hlaw v (by simp [hv]))
      fun v hv => by rw [hkept v hv]; exact hentries v (by simp [hv])
    simp only [List.contains_cons, List.foldl_cons]
    exact hfirst.trans hrest fun v hv => by
      obtain rfl : v = w := by simpa using hv
      simpa using hw

/-! ### Step 2 (R30, R32) -/

/-- The writes held for window `w`. -/
def State.heldFor (s : State) (w : WIdx) : Nat := s.holds.countP fun h => h.window == w

/-- The answers of step 2 at window `w`: to the held writes of an ONLINE window, and to the LATE markers of its unreleased groups. -/
def State.quitTold (s : State) (w : WIdx) (a : Told) : Prop :=
  ((s.win w).state = .online ∧ ∃ h ∈ s.holds, h.window = w ∧ a = h.told) ∨ ∃ g ∈ (s.win w).drops, a ∈ g.told .refused

/-- Step 2 at the windows of `p`. -/
structure Quits (p : WIdx → Bool) (s t : State) : Prop where
  win : ∀ v, t.win v = if p v = true then (s.win v).quit (s.heldFor v) else s.win v
  credits : t.credits = s.credits
  drops : ∃ l, Drops (fun e => p e.window && e.ofGroups e.window (s.win e.window).drops) l
      (fun v => !(p v && (s.win v).state == .online)) s t ∧ ∀ a, a ∈ l ↔ ∃ v, p v = true ∧ s.quitTold v a

theorem Quits.refl (s : State) : Quits (fun _ => false) s s where
  win := fun v => rfl
  credits := rfl
  drops := ⟨[], by simpa using Drops.nothing (s := s) rfl rfl rfl (.of_same rfl), by simp⟩

theorem heldFor_claims (l : List Held) (w : WIdx) :
    (l.countP fun h => h.window == w) = (l.map Held.claim).countP fun c => c.2.1 == w := by
  rw [List.countP_map]
  rfl

/-- The writes held for a window that is still to come. -/
theorem Quits.claims (h : Quits p s t) {v : WIdx} (hv : p v = false) :
    (t.holds.map Held.claim).filter (fun c => c.2.1 == v) = (s.holds.map Held.claim).filter fun c => c.2.1 == v := by
  obtain ⟨l, hl, -⟩ := h.drops
  rw [hl.holds, filter_claim fun v => !(p v && (s.win v).state == .online), List.filter_filter]
  refine List.filter_congr fun c _ => ?_
  by_cases hc : c.2.1 = v
  · simp [hc, hv]
  · simp [hc]

theorem Quits.heldFor (h : Quits p s t) {v : WIdx} (hv : p v = false) : t.heldFor v = s.heldFor v := by
  rw [State.heldFor, State.heldFor, heldFor_claims, heldFor_claims, List.countP_eq_length_filter, List.countP_eq_length_filter,
    h.claims hv]

theorem held_told_iff (l : List Held) (v : WIdx) (a : Told) : (∃ h ∈ l, h.window = v ∧ a = h.told) ↔
    ∃ c ∈ (l.map Held.claim).filter (fun c => c.2.1 == v), a = ⟨c.2.2.1, c.2.2.2, .refused⟩ := by
  constructor
  · rintro ⟨h, hh, hw, rfl⟩
    exact ⟨h.claim, List.mem_filter.2 ⟨List.mem_map_of_mem hh, beq_iff_eq.2 hw⟩, rfl⟩
  · rintro ⟨c, hc, rfl⟩
    obtain ⟨hc, hv⟩ := List.mem_filter.1 hc
    obtain ⟨h, hh, rfl⟩ := List.mem_map.1 hc
    exact ⟨h, hh, eq_of_beq hv, rfl⟩

/-- The windows of `p`, then those of `q`, none of them twice. -/
theorem Quits.trans (h : Quits p s t) (k : Quits q t u) (hpq : ∀ v, p v = true → q v = false) : Quits (fun v => p v || q v) s u := by
  have hkept : ∀ v, q v = true → t.win v = s.win v := fun v hq => by
    rw [h.win, if_neg fun hp => by rw [hpq v hp] at hq; cases hq]
  have hnot : ∀ v, q v = true → p v = false := fun v hq => by
    cases hp : p v
    · rfl
    · rw [hpq v hp] at hq
      cases hq
  have htold : ∀ v, q v = true → ∀ a, t.quitTold v a ↔ s.quitTold v a := fun v hq a => by
    rw [State.quitTold, State.quitTold, hkept v hq, held_told_iff, held_told_iff, h.claims (hnot v hq)]
  refine ⟨fun v => ?_, k.credits.trans h.credits, ?_⟩
  · cases hq : q v
    · rw [k.win, if_neg (by simp [hq]), h.win, Bool.or_false]
    · rw [k.win, if_pos hq, hkept v hq, h.heldFor (hnot v hq), if_pos (by simp)]
  · obtain ⟨l, hl, hmem⟩ := h.drops
    obtain ⟨m, hm, kmem⟩ := k.drops
    refine ⟨l ++ m, ?_, fun a => ?_⟩
    · have hgone : (fun e : Entry => (p e.window || q e.window) && e.ofGroups e.window (s.win e.window).drops) = fun e =>
          (p e.window && e.ofGroups e.window (s.win e.window).drops) ||
            (q e.window && e.ofGroups e.window (t.win e.window).drops) := funext fun e => by
        cases hq : q e.window
        · simp
        · rw [hkept _ hq]
          simp [hnot _ hq]
      have hkeeps : (fun v : WIdx => !((p v || q v) && (s.win v).state == .online)) = fun v =>
          !(p v && (s.win v).state == .online) && !(q v && (t.win v).state == .online) := funext fun v => by
        cases hq : q v
        · simp
        · rw [hkept _ hq]
          simp [hnot _ hq]
      rw [hgone, hkeeps]
      exact hl.trans hm
    · rw [List.mem_append, hmem, kmem]
      constructor
      · rintro (⟨v, hv, ha⟩ | ⟨v, hv, ha⟩)
        · exact ⟨v, by simp [hv], ha⟩
        · exact ⟨v, by simp [hv], (htold v hv a).1 ha⟩
      · rintro ⟨v, hv, ha⟩
        rcases Bool.or_eq_true _ _ ▸ hv with hv | hv
        · exact .inl ⟨v, hv, ha⟩
        · exact .inr ⟨v, hv, (htold v hv a).2 ha⟩

/-- Step 2 at a window that is not ONLINE. -/
theorem quits_none (h : (s.win w).state ≠ .online) : Quits (· == w) s (s.softQuiesce w) := by
  have hnone : (s.win w).drops = [] := if_neg h
  rw [State.softQuiesce_of_not_online h]
  refine ⟨fun v => ?_, rfl, [], ?_, fun a => ?_⟩
  · rw [State.win_modWin]
    by_cases hv : v = w
    · rw [if_pos hv, if_pos (by simpa using hv), hv, Window.quit_of_not_online h]
    · rw [if_neg hv, if_neg (by simpa using hv)]
  · have hgone : (fun e : Entry => e.window == w && e.ofGroups e.window (s.win e.window).drops) = fun _ => false := funext fun e => by
      by_cases he : e.window = w
      · rw [he, hnone]
        simp [Entry.ofGroups]
      · simp [he]
    have hkeeps : (fun v : WIdx => !(v == w && (s.win v).state == .online)) = fun _ => true := funext fun v => by
      by_cases hv : v = w
      · simp [hv, h]
      · simp [hv]
    rw [hgone, hkeeps]
    exact Drops.modWin s w _
  · simp [State.quitTold, hnone, h]

/-- Step 2 at an ONLINE window. -/
theorem quits_some (hnodup : (s.holds.map Held.slot).Nodup) (hon : (s.win w).state = .online) :
    Quits (· == w) s (s.softQuiesce w) := by
  have hstep : s.softQuiesce w = ((s.quiesced w .drop).discardUnreleased w .quiesce).offlineIfEmpty w := by
    rw [State.softQuiesce, hon]
    rfl
  have hdrops : (s.win w).drops = (s.win w).groups.filter fun g => g.state.unreleased := if_pos hon
  have hsame : s.sameOutsideGroups (s.softQuiesce w) := by
    rw [hstep]
    exact same_closed.quiesceDrop s w (by rw [hon]; decide)
  have hwin : (s.softQuiesce w).win w = (s.win w).quit (s.heldFor w) := by
    have hleft : (s.win w).groups.diff (s.win w).drops = (s.win w).groups.filter fun g => !g.state.unreleased := by
      rw [hdrops, diff_filter]
    rw [hstep, State.win_offlineIfEmpty, State.win_dropping, Window.quit, if_pos hon, ← hdrops]
    simp only [Window.discarded, hleft, true_and, State.heldFor]
    split
    · rfl
    · rfl
  have hquiesced : Drops (fun _ => false) ((s.holds.filter fun h => h.window == w).map Held.told) (fun v => v != w) s
      (s.quiesced w .drop) :=
    Drops.after_nothing (.modWin s w _) (Drops.refuseHeld (s := s.modWin w _) hnodup w)
  have hqueue : ((s.quiesced w .drop).win w).groups.filter (fun g => g.state.unreleased) = (s.win w).drops := by
    rw [State.win_quiesced, hdrops]
  have hall : Drops (fun e => e.ofGroups w (s.win w).drops)
      ((s.holds.filter fun h => h.window == w).map Held.told ++ (s.win w).drops.flatMap fun g => g.told .refused) (fun v => v != w) s
      (s.softQuiesce w) := by
    rw [hstep, State.discardUnreleased, hqueue]
    refine Drops.then_nothing ?_ (.offlineIfEmpty _ w)
    simpa using hquiesced.trans (.discards w .quiesce (s.win w).drops _)
  refine ⟨fun v => ?_, sameOutsideGroups_credits hsame,
    (s.holds.filter fun h => h.window == w).map Held.told ++ (s.win w).drops.flatMap fun g => g.told .refused, ?_, fun a => ?_⟩
  · by_cases hv : v = w
    · rw [if_pos (by simpa using hv), hv, hwin]
    · rw [if_neg (by simpa using hv), OnlyAt.softQuiesce s v hv]
  · have hgone : (fun e : Entry => e.window == w && e.ofGroups e.window (s.win e.window).drops) =
        fun e => e.ofGroups w (s.win w).drops := funext fun e => by
      by_cases he : e.window = w
      · simp [he]
      · simp [Entry.ofGroups, Entry.ofGroup, beq_false_of_ne he]
    have hkeeps : (fun v : WIdx => !(v == w && (s.win v).state == .online)) = fun v => v != w := funext fun v => by
      by_cases hv : v = w
      · simp [hv, hon]
      · rw [beq_false_of_ne hv, Bool.false_and, bne_iff_ne.2 hv]
        rfl
    rw [hgone, hkeeps]
    exact hall
  · simp only [List.mem_append, List.mem_map, List.mem_filter, List.mem_flatMap, beq_iff_eq, exists_eq_left, State.quitTold, hon,
      true_and]
    refine or_congr (exists_congr fun h => ?_) Iff.rfl
    rw [and_assoc, eq_comm (a := a)]

/-- Step 2 at the windows of a list that names none twice. -/
theorem quits_foldl (l : List WIdx) (hl : l.Nodup) (s : State) (hnodup : (s.holds.map Held.slot).Nodup) :
    Quits (fun v => l.contains v) s (l.foldl State.softQuiesce s) := by
  induction l generalizing s with
  | nil => exact Quits.refl s
  | cons w l ih =>
    obtain ⟨hw, hl⟩ := List.nodup_cons.1 hl
    have hfirst : Quits (· == w) s (s.softQuiesce w) := by
      by_cases hon : (s.win w).state = .online
      · exact quits_some hnodup hon
      · exact quits_none hon
    have hkept : ((s.softQuiesce w).holds.map Held.slot).Nodup := by
      obtain ⟨m, hm, -⟩ := hfirst.drops
      have hfst : ∀ l : List Held, l.map Held.slot = (l.map Held.claim).map Prod.fst := fun l => by rw [List.map_map]; rfl
      rw [hfst, hm.holds, ← hfst]
      exact hnodup.sublist (List.filter_sublist.map _)
    simp only [List.contains_cons, List.foldl_cons]
    exact hfirst.trans (ih hl _ hkept) fun v hv => by
      obtain rfl : v = w := by simpa using hv
      simpa using hw

end

end Sys2Proof.Machine
end

section
/-! O58. SOFT_RESET on any lawful state (R40, R126, R184, R186). -/

namespace Sys2Proof.Machine

section
variable {s t : State} {w : WIdx} {g : Group} {o q : List WIdx}

/-! ### The groups that a soft reset ends, in a lawful table -/

theorem Window.law.mem_faults {x : Window} (h : x.law) : g ∈ x.faults ↔ g ∈ x.groups ∧ g.state = .faulted := by
  by_cases hfrozen : x.state = .frozen
  · obtain ⟨y, tail, f, hgroups, hfaulted, -, -, -, hnone, -⟩ := h.frozen_cases hfrozen
    rw [Window.faults, if_pos hfrozen, hgroups]
    constructor
    · intro hg
      obtain rfl : g = y := by simpa using hg
      exact ⟨by simp, hfaulted⟩
    · rintro ⟨hg, hf⟩
      rcases List.mem_cons.1 hg with rfl | hg
      · simp
      · exact absurd hf (hnone g hg)
  · obtain ⟨-, -, -, -, -, -, hfaulted⟩ := h
    rw [Window.faults, if_neg hfrozen]
    exact ⟨(by intro hg; cases hg), fun ⟨hg, hf⟩ => absurd (hfaulted g hg hf) hfrozen⟩

theorem Window.law.mem_drops {x : Window} (h : x.law) (busy : Bool) :
    g ∈ (x.thawed busy).drops ↔ g ∈ x.groups ∧ g.state.releasedOrLater = false := by
  have hends : g ∈ x.faults ++ (x.thawed busy).drops ↔ g ∈ x.groups ∧ g.goes = true := by rw [h.goes busy, List.mem_filter]
  have hunreleased : g ∈ (x.thawed busy).drops → g.state.releasedOrLater = false := fun hg => by
    unfold Window.drops at hg
    split at hg
    · simpa [GState.unreleased] using (List.mem_filter.1 hg).2
    · cases hg
  constructor
  · exact fun hg => ⟨(hends.1 (List.mem_append_right _ hg)).1, hunreleased hg⟩
  · rintro ⟨hg, hr⟩
    refine (List.mem_append.1 (hends.2 ⟨hg, by simp [Group.goes, hr]⟩)).resolve_left fun hf => ?_
    rw [(h.mem_faults.1 hf).2] at hr
    cases hr

/-! ### The two steps together -/

/-- What the two steps of a soft reset make of a lawful table. -/
structure Softened (s t : State) : Prop where
  win : ∀ v, t.win v = ((s.win v).thawed (s.busy v)).quit (s.heldFor v)
  credit : ∀ c, t.credit c = (s.credit c).orphanedIn fun v => (s.win v).faults
  slots : t.slots = s.slots.filter fun e => !(s.win e.window).groups.any fun g => g.goes && e.ofGroup e.window g.number
  holds : t.holds = []
  free : ∀ u, s.rcd u = none → t.rcd u = none
  tells : s.oneRecordEach → ∃ l, Tells l s t ∧ ∀ a, a ∈ l ↔ (∃ h ∈ s.holds, a = h.told) ∨ ∃ v, ∃ g ∈ (s.win v).groups,
    (g.state = .faulted ∧ a ∈ g.told .failed) ∨ (g.state.releasedOrLater = false ∧ a ∈ g.told .refused)
  frame : CreditFrame s t

theorem softened (hlaw : s.groupLaw)
    (hentries : ∀ v, (s.win v).state = .frozen → ∀ y ∈ (s.win v).groups.tail.head?, y.state = .released → y.entryCount ≠ 0)
    (o q : List WIdx) : Softened s (s.softSteps o q) := by
  obtain ⟨hwin, hnodup, honline⟩ := hlaw
  have hall : ∀ (l : List WIdx) (v : WIdx), (visitOrder l).contains v = true := fun l v => List.contains_iff_mem.2 (mem_visitOrder l v)
  have hthaws := thaws_foldl (visitOrder o) (nodup_visitOrder o) s (fun v _ => hwin v) fun v _ => hentries v
  obtain ⟨a, ha⟩ : ∃ a, a = (visitOrder o).foldl State.softAbandon s := ⟨_, rfl⟩
  rw [← ha] at hthaws
  obtain ⟨l, hl, hmem⟩ := hthaws.drops
  have hawin : ∀ v, a.win v = (s.win v).thawed (s.busy v) := fun v => by rw [hthaws.win, if_pos (hall o v)]
  have hclaims : a.holds.map Held.claim = s.holds.map Held.claim := by rw [hl.holds, List.filter_true]
  have hanodup : (a.holds.map Held.slot).Nodup := by
    have hfst : ∀ l : List Held, l.map Held.slot = (l.map Held.claim).map Prod.fst := fun l => by rw [List.map_map]; rfl
    rw [hfst, hclaims, ← hfst]
    exact hnodup
  have hheld : ∀ v, a.heldFor v = s.heldFor v := fun v => by
    rw [State.heldFor, State.heldFor, heldFor_claims, heldFor_claims, hclaims]
  have hon : ∀ v, (s.win v).state = .online → (a.win v).state = .online := fun v hv => by
    rw [hawin, Window.thawed_of_not_frozen (by rw [hv]; decide)]
    exact hv
  have hquits := quits_foldl (visitOrder q) (nodup_visitOrder q) a hanodup
  obtain ⟨m, hm, kmem⟩ := hquits.drops
  obtain ⟨t, ht⟩ : ∃ t, t = s.softSteps o q := ⟨_, rfl⟩
  rw [show (visitOrder q).foldl State.softQuiesce a = t by rw [ht, ha]; rfl] at hquits hm
  have hdrops := hl.trans hm
  rw [← ht]
  refine ⟨fun v => ?_, fun c => ?_, ?_, ?_, hdrops.free, fun hone => ⟨l ++ m, hdrops.tells hone, fun x => ?_⟩, hdrops.frame⟩
  · rw [hquits.win, if_pos (hall q v), hawin, hheld]
  · have hcredit : t.credit c = a.credit c := by rw [State.credit, hquits.credits]; rfl
    rw [hcredit, hthaws.credit]
    simp only [hall, if_true]
  · rw [hdrops.slots]
    refine List.filter_congr fun e _ => ?_
    rw [hall, hall, Bool.true_and, Bool.true_and, hawin, Entry.ofGroups, Entry.ofGroups, ← List.any_append, (hwin _).goes,
      List.any_filter]
  · have hnil : t.holds.map Held.claim = [] := by
      rw [hdrops.holds, List.map_eq_nil_iff, List.filter_eq_nil_iff]
      intro h hh
      have := hon _ (honline h hh)
      rw [hall, this]
      decide
    exact List.map_eq_nil_iff.1 hnil
  · have hholds : ∀ v, (∃ h ∈ a.holds, h.window = v ∧ x = h.told) ↔ ∃ h ∈ s.holds, h.window = v ∧ x = h.told := fun v => by
      rw [held_told_iff, held_told_iff, hclaims]
    have hquit : ∀ v, a.quitTold v x ↔ (∃ h ∈ s.holds, h.window = v ∧ x = h.told) ∨
        ∃ g ∈ (s.win v).groups, g.state.releasedOrLater = false ∧ x ∈ g.told .refused := fun v => by
      have hdropped : (∃ g ∈ (a.win v).drops, x ∈ g.told .refused) ↔
          ∃ g ∈ (s.win v).groups, g.state.releasedOrLater = false ∧ x ∈ g.told .refused := by
        simp only [hawin, (hwin v).mem_drops, and_assoc]
      rw [State.quitTold, hholds, hdropped]
      refine or_congr ⟨fun h => h.2, fun h => ⟨?_, h⟩⟩ Iff.rfl
      obtain ⟨y, hy, rfl, -⟩ := h
      exact hon _ (honline y hy)
    rw [List.mem_append, hmem, kmem]
    simp only [hquit, hall, true_and, (hwin _).mem_faults]
    constructor
    · rintro (⟨v, y, ⟨hy, hf⟩, hx⟩ | ⟨v, ⟨h, hh, -, hx⟩ | ⟨y, hy, hr, hx⟩⟩)
      · exact .inr ⟨v, y, hy, .inl ⟨hf, hx⟩⟩
      · exact .inl ⟨h, hh, hx⟩
      · exact .inr ⟨v, y, hy, .inr ⟨hr, hx⟩⟩
    · rintro (⟨h, hh, hx⟩ | ⟨v, y, hy, ⟨hf, hx⟩ | ⟨hr, hx⟩⟩)
      · exact .inr ⟨h.window, .inl ⟨h, hh, rfl, hx⟩⟩
      · exact .inl ⟨v, y, ⟨hy, hf⟩, hx⟩
      · exact .inr ⟨v, .inr ⟨y, hy, hr, hx⟩⟩

/-! ### Its parts, as O58 says them -/

/-- Group `n` is the FAULTED group of window `w`. -/
def State.faultedAt (s : State) (w : WIdx) (n : Byte) : Prop := ∃ g ∈ s.oldest w, g.state = .faulted ∧ g.number = n

/-- The window has an orphaned write, or a write of its FAULTED group. -/
def State.hasWrites (s : State) (w : WIdx) : Prop := ∃ c : CreditNo, s.credit c = .drain (.orphan w) ∨
  ∃ n, s.faultedAt w n ∧ (s.credit c = .drain (.marker w n) ∨ ∃ k, s.credit c = .drain (.entry w n k))

theorem faults_any_iff (h : (s.win w).law) (n : Byte) : ((s.win w).faults.any fun g => g.number == n) = true ↔ s.faultedAt w n := by
  rw [List.any_eq_true]
  constructor
  · rintro ⟨g, hg, hn⟩
    refine ⟨g, ?_, (h.mem_faults.1 hg).2, eq_of_beq hn⟩
    unfold Window.faults at hg
    split at hg
    · rw [Option.mem_toList] at hg
      exact hg
    · cases hg
  · rintro ⟨g, hg, hf, hn⟩
    exact ⟨g, h.mem_faults.2 ⟨State.mem_of_oldest hg, hf⟩, beq_iff_eq.2 hn⟩

theorem busy_iff_hasWrites (h : ∀ v, (s.win v).law) : s.busy w = true ↔ s.hasWrites w := by
  rw [State.busy_iff (F := fun v => (s.win v).faults) rfl]
  simp only [Credit.orphanedIn_iff, faults_any_iff (h w)]
  rfl

/-- The queue left of a window (R32, R103, R121). -/
theorem Softened.left (h : Softened s t) (hlaw : ∀ v, (s.win v).law) (w : WIdx) :
    let stays := (s.win w).groups.filter fun g => !g.goes
    ((s.win w).state ≠ .frozen ∨ s.hasWrites w ∨ (∀ y ∈ stays.head?, y.state ≠ .released) → (t.win w).groups = stays) ∧
      (∀ y ys, (s.win w).state = .frozen → ¬s.hasWrites w → stays = y :: ys → y.state = .released →
        (t.win w).groups = y.taken :: ys) := by
  intro stays
  have hgroups := (hlaw w).left (s.busy w) (s.heldFor w)
  rw [← h.win] at hgroups
  constructor
  · intro hcase
    rw [hgroups]
    split
    · next hfrozen =>
      refine queueTaken_busy ?_
      rcases hcase with hnot | hwrites | hhead
      · exact absurd hfrozen hnot
      · exact .inl ((busy_iff_hasWrites hlaw).2 hwrites)
      · exact .inr hhead
    · rfl
  · intro y ys hfrozen hwrites hstays hreleased
    have hbusy : s.busy w = false := Bool.eq_false_iff.2 fun hb => hwrites ((busy_iff_hasWrites hlaw).1 hb)
    rw [hgroups, if_pos hfrozen]
    exact (congrArg (queueTaken _) hstays).trans (if_pos ⟨hreleased, hbusy⟩)

/-- An unanswered record after a soft reset (R74, R121, R153). -/
theorem Softened.answers (h : Softened s t) (hone : s.oneRecordEach) {u : RecNo} {r : Transit} (hr : r ∈ s.rcd u) :
    let waits := r.path = .group ∧ r.result = none
    let held := waits ∧ ∃ h ∈ s.holds, h.source = r.source ∧ h.tag = r.tag
    let pends := fun g : Group => waits ∧ g.pendingMarker = some (r.source, r.tag)
    (held → (∀ w : WIdx, ∀ g ∈ (s.win w).groups, ¬pends g) → t.rcd u = some (r.answered .refused none)) ∧
      (¬held → ∀ w : WIdx, ∀ g ∈ (s.win w).groups, pends g →
        (∀ v : WIdx, ∀ y ∈ (s.win v).groups, pends y → y.state = g.state) →
        (g.state = .faulted → t.rcd u = some (r.answered .failed none)) ∧
        (g.state.releasedOrLater = false → t.rcd u = some (r.answered .refused none))) ∧
      (¬held → (∀ w : WIdx, ∀ g ∈ (s.win w).groups, pends g → g.goes = false) → t.rcd u = some r) := by
  intro waits held pends
  obtain ⟨l, htells, hmem⟩ := h.tells hone
  have hrcd : t.rcd u = some (r.told l) := by rw [htells u, Option.mem_def.1 hr]; rfl
  have hheld : ∀ a : Told, r.awaits a → ¬held → ¬∃ h ∈ s.holds, a = h.told := by
    rintro a ⟨hp, hn, hs, ht⟩ hnot ⟨h, hh, rfl⟩
    exact hnot ⟨⟨hp, hn⟩, h, hh, hs, ht⟩
  have hpends : ∀ (a : Told) (g : Group) (res : Result), r.awaits a → a ∈ g.told res → pends g ∧ a.result = res := by
    rintro a g res ⟨hp, hn, hs, ht⟩ ha
    obtain ⟨hm, hres⟩ := Group.mem_told.1 ha
    exact ⟨⟨⟨hp, hn⟩, by rw [hm, hs, ht]⟩, hres⟩
  rw [hrcd]
  refine ⟨fun hh hnone => ?_, fun hnot w g hg hpend hsame => ⟨fun hf => ?_, fun hu => ?_⟩, fun hnot hstay => ?_⟩
  · obtain ⟨⟨hp, hn⟩, y, hy, hs, ht⟩ := hh
    refine congrArg some (Transit.told_some (fun a ha hw => ?_) ⟨y.told, (hmem _).2 (.inl ⟨y, hy, rfl⟩), hp, hn, hs, ht⟩)
    rcases (hmem a).1 ha with ⟨z, -, rfl⟩ | ⟨v, z, hz, ⟨-, hza⟩ | ⟨-, hza⟩⟩
    · rfl
    · exact absurd (hpends a z _ hw hza).1 (hnone v z hz)
    · exact (hpends a z _ hw hza).2
  · obtain ⟨⟨hp, hn⟩, hm⟩ := hpend
    refine congrArg some (Transit.told_some (fun a ha hw => ?_) ⟨⟨r.source, r.tag, .failed⟩,
      (hmem _).2 (.inr ⟨w, g, hg, .inl ⟨hf, Group.mem_told.2 ⟨hm, rfl⟩⟩⟩), hp, hn, rfl, rfl⟩)
    rcases (hmem a).1 ha with hh | ⟨v, z, hz, ⟨-, hza⟩ | ⟨hzu, hza⟩⟩
    · exact absurd hh (hheld a hw hnot)
    · exact (hpends a z _ hw hza).2
    · rw [hsame v z hz (hpends a z _ hw hza).1, hf] at hzu
      cases hzu
  · obtain ⟨⟨hp, hn⟩, hm⟩ := hpend
    refine congrArg some (Transit.told_some (fun a ha hw => ?_) ⟨⟨r.source, r.tag, .refused⟩,
      (hmem _).2 (.inr ⟨w, g, hg, .inr ⟨hu, Group.mem_told.2 ⟨hm, rfl⟩⟩⟩), hp, hn, rfl, rfl⟩)
    rcases (hmem a).1 ha with hh | ⟨v, z, hz, ⟨hzf, hza⟩ | ⟨-, hza⟩⟩
    · exact absurd hh (hheld a hw hnot)
    · rw [← hsame v z hz (hpends a z _ hw hza).1, hzf] at hu
      cases hu
    · exact (hpends a z _ hw hza).2
  · refine congrArg some (Transit.told_none fun a ha hw => ?_)
    rcases (hmem a).1 ha with hh | ⟨v, z, hz, ⟨hzf, hza⟩ | ⟨hzu, hza⟩⟩
    · exact hheld a hw hnot hh
    · have := hstay v z hz (hpends a z _ hw hza).1
      simp [Group.goes, hzf] at this
    · have := hstay v z hz (hpends a z _ hw hza).1
      simp [Group.goes, hzu] at this

/-! ### The taking of SOFT_RESET -/

theorem State.softResetCheck_kept (s : State) : s.softResetCheck.credits = s.credits ∧ s.softResetCheck.holds = s.holds ∧
    s.softResetCheck.transit = s.transit := by
  unfold State.softResetCheck
  split
  · exact ⟨rfl, rfl, rfl⟩
  · exact ⟨rfl, rfl, rfl⟩

theorem events_of_posts (h : Posts s t) : ∃ more, t.events = s.events ++ more := by
  obtain ⟨l, hl⟩ := h
  simp only [State.eventUnit, Prod.mk.injEq] at hl
  obtain ⟨more, hmore⟩ := events_closed.foldl State.offer (fun u e => events_closed.offer u e) l s
  exact ⟨more, by rw [hl.1, hmore]⟩

end

/-- A window that neither step finds ONLINE or FROZEN (R184). -/
theorem Softened.win_quiet {s t : State} (h : Softened s t) {w : WIdx} (hon : (s.win w).state ≠ .online)
    (hfrozen : (s.win w).state ≠ .frozen) : t.win w = (s.win w).dropping := by
  rw [h.win, Window.thawed_of_not_frozen hfrozen, Window.quit_of_not_online hon]

/-- The window records after a soft reset that has not ended (R30, R32, R33, R37). -/
theorem Softened.records {s t : State} (h : Softened s t) (hlaw : s.groupLaw) (w : WIdx) :
    ((s.win w).state = .unused ∨ (s.win w).state = .offline → t.win w = s.win w) ∧
      ((s.win w).state = .quiescing → t.win w = { s.win w with quiesceMode := some .drop }) ∧
      ((s.win w).state = .online ∨ (s.win w).state = .frozen → t.win w = { s.win w with
        state := if (t.win w).groups = [] then .offline else .quiescing
        quiesceMode := if (t.win w).groups = [] then none else some .drop
        frozenFrom := none
        groups := (t.win w).groups
        stats := { (s.win w).stats with
          discarded := (s.win w).stats.discarded + BitVec.ofNat 32 ((s.win w).groups.countP Group.goes)
          refused := (s.win w).stats.refused + BitVec.ofNat 32 (s.heldFor w + (s.win w).groups.countP fun g =>
            !g.state.releasedOrLater && g.pendingMarker.isSome) } }) := by
  obtain ⟨hwin, -, honline⟩ := hlaw
  refine ⟨fun hidle => ?_, fun hq => ?_, fun hlive => ?_⟩
  · have hnot : (s.win w).state ≠ .online ∧ (s.win w).state ≠ .frozen ∧ (s.win w).state ≠ .quiescing := by
      rcases hidle with h | h <;> rw [h] <;> decide
    obtain ⟨hon, hfrozen, hq⟩ := hnot
    exact (h.win_quiet hon hfrozen).trans (if_neg hq)
  · have hnot : (s.win w).state ≠ .online ∧ (s.win w).state ≠ .frozen := by rw [hq]; decide
    exact (h.win_quiet hnot.1 hnot.2).trans (if_pos hq)
  · have hnone : (s.win w).state = .frozen → s.heldFor w = 0 := fun hfrozen => List.countP_eq_zero.2 fun y hy hv => by
      have hon := honline y hy
      rw [eq_of_beq hv, hfrozen] at hon
      cases hon
    have hrecord := (hwin w).soft hlive (s.busy w) hnone
    rwa [← h.win w] at hrecord

/-- Settles O58: the quiet case, the DONE that ends it, and the two steps window by window. -/
theorem softReset : Obligations.SoftReset := by
  intro s ended
  refine ⟨fun o1 o2 hport hsoft hquiet => ⟨fun hidle => ?_, fun ⟨w, hw⟩ => ?_⟩,
    fun c data w g hreset hsoft hc hgroups hmarking hm hstate hothers hpending hholds => ?_,
    fun o1 o2 hport hsoft hlaw hentries => ?_⟩
  · have hsame : ({ s with softReset := true } : State).softSteps o1 o2 = { s with softReset := true } := by
      refine State.softSteps_none (fun w => ?_) o1 o2
      obtain ⟨hon, hfrozen⟩ := hquiet w
      exact ⟨hon, hfrozen, (hidle w).1⟩
    rw [exec_softReset hport hsoft, State.beginSoftReset_eq, hsame,
      State.softResetCheck_ends (s := { s with softReset := true }) rfl fun w => (hidle w).2]
    rfl
  · obtain ⟨t, ht⟩ : ∃ t, t = ({ s with softReset := true } : State).softSteps o1 o2 := ⟨_, rfl⟩
    have hwin : ∀ v, t.win v = (s.win v).dropping := fun v => by
      rw [ht]
      exact State.win_softSteps_quiet (s := { s with softReset := true }) hquiet o1 o2 v
    have hframe : t = { s with softReset := true, windows := t.windows } := by
      rw [ht, State.softSteps_quiet (s := { s with softReset := true }) hquiet]
      exact State.modWins_eq _ _ _
    refine ⟨t, ?_, by rw [hframe], fun v hv => by rw [hwin, Window.dropping, if_pos hv], fun v hv => by
      rw [hwin, Window.dropping, if_neg hv], hframe⟩
    rw [exec_softReset hport hsoft, State.beginSoftReset_eq, ← ht, State.softResetCheck_of_group (w := w)]
    rw [hwin, Window.dropping_groups]
    exact hw
  · exact exec_markerDone_ends data hreset hsoft hc hgroups hmarking hm hstate hothers hpending hholds
  · intro goes orphaned writes stays
    obtain ⟨hwin, hheld, -⟩ := hlaw
    have hsoftened := softened (s := { s with softReset := true }) ⟨hwin, hheld⟩ hentries o1 o2
    obtain ⟨u, hu⟩ : ∃ u, u = ({ s with softReset := true } : State).softSteps o1 o2 := ⟨_, rfl⟩
    have hposts : Posts s u := by
      rw [hu]
      exact posts_closed.softSteps s o1 o2
    rw [← hu] at hsoftened
    obtain ⟨hcredits, hholds, htransit⟩ := u.softResetCheck_kept
    have hrcd : ∀ v, u.softResetCheck.rcd v = u.rcd v := fun v => by rw [State.rcd, htransit]; rfl
    refine ⟨u.softResetCheck, fun w => (u.win w).groups, ?_, fun w => hsoftened.left hwin w, fun c => ?_,
      hholds.trans hsoftened.holds, fun v hv => (hrcd v).trans (hsoftened.free v hv), fun hone v r hr => ?_, fun hnil => ?_,
      fun ⟨w, hw⟩ => ?_⟩
    · rw [exec_softReset hport hsoft, State.beginSoftReset_eq, ← hu]
    · have hcredit : u.softResetCheck.credit c = (s.credit c).orphanedIn fun v => (s.win v).faults := by
        rw [State.credit, hcredits]
        exact hsoftened.credit c
      rw [hcredit]
      cases s.credit c with
      | free => rfl
      | forwarder cl => rfl
      | drain cl =>
        cases cl with
        | orphan v => rfl
        | entry v n k => exact if_congr (faults_any_iff (hwin v) n) rfl rfl
        | marker v n => exact if_congr (faults_any_iff (hwin v) n) rfl rfl
    · rw [hrcd]
      exact hsoftened.answers hone hr
    · rw [State.softResetCheck_ends hsoftened.frame.softReset hnil]
      refine (congrArg State.endSoftReset hsoftened.frame).trans ?_
      rw [hsoftened.holds]
      rfl
    · rw [State.softResetCheck_of_group hw]
      exact ⟨hsoftened.frame.softReset, fun v => hsoftened.records ⟨hwin, hheld⟩ v, hsoftened.slots, events_of_posts hposts,
        hsoftened.frame⟩

end Sys2Proof.Machine
end
